-- ==== Sys2Proof/Word.lean ====
section
/-! DEFINITION. The word types of the block: the 32-bit bus word and the 8-bit byte (00_scope R9, R11). -/

namespace Sys2Proof

/-- A 32-bit bus word, register value or command word (00_scope R11, 10_state section 2). -/
abbrev Word := BitVec 32

/-- A byte: one channel of a pixel, one byte of a RAM or of the output sequence (00_scope R9). -/
abbrev Byte := BitVec 8

end Sys2Proof
end

