-- ==== Sys2Proof/Syntax.lean ====
section
/-! DEFINITION. The thirteen commands of the opcode table (30_encoding R82). A command word has no operand
field (R88), so no constructor has an argument. -/

namespace Sys2Proof

/-- The commands of 30_encoding R82, one constructor per row of spec/opcode_table.json. -/
inductive Instr where
  | nop
  | sreset
  | resize
  | rotate
  | mirror
  | adjBright
  | adjContrast
  | invert
  | ditherFs
  | ditherBayer
  | preprocess
  | encode
  | convert
  deriving DecidableEq, Repr

/-- Every command, in the table's order. -/
def Instr.all : List Instr :=
  [.nop, .sreset, .resize, .rotate, .mirror, .adjBright, .adjContrast, .invert, .ditherFs,
   .ditherBayer, .preprocess, .encode, .convert]

end Sys2Proof
end

