-- ==== Sys2Proof/Decode.lean ====
section
/-! DEFINITION. Decoding and encoding of command words (30_encoding R80 to R83, R89). -/

namespace Sys2Proof

/-- Why a word names no command (30_encoding R81); either way the engine raises IllegalCommand. -/
inductive DecodeError where
  /-- `w[31:8] ≠ 0` (R80, R83). -/
  | reservedBitsSet
  /-- `w[7:0]` is none of the thirteen opcodes (R82, R83). -/
  | unassignedOpcode
  deriving DecidableEq, Repr

/-- The `OPC` column of 30_encoding R82. -/
def opcode : Instr → Byte
  | .nop => 0x00#8
  | .sreset => 0x01#8
  | .resize => 0x10#8
  | .rotate => 0x11#8
  | .mirror => 0x12#8
  | .adjBright => 0x13#8
  | .adjContrast => 0x14#8
  | .invert => 0x15#8
  | .ditherFs => 0x16#8
  | .ditherBayer => 0x17#8
  | .preprocess => 0x18#8
  | .encode => 0x20#8
  | .convert => 0x21#8

/-- The command an opcode names, if any (30_encoding R82). -/
def ofOpcode (opc : Byte) : Option Instr :=
  match opc.toNat with
  | 0x00 => some .nop
  | 0x01 => some .sreset
  | 0x10 => some .resize
  | 0x11 => some .rotate
  | 0x12 => some .mirror
  | 0x13 => some .adjBright
  | 0x14 => some .adjContrast
  | 0x15 => some .invert
  | 0x16 => some .ditherFs
  | 0x17 => some .ditherBayer
  | 0x18 => some .preprocess
  | 0x20 => some .encode
  | 0x21 => some .convert
  | _ => none

/-- 30_encoding R81: total on all `2^32` words; a word with a reserved bit set or an unassigned opcode is
rejected by name. No mode bit changes it and no later word is looked at (R89). -/
def decode (w : Word) : Except DecodeError Instr :=
  if w.extractLsb' 8 24 = 0#24 then
    match ofOpcode (w.extractLsb' 0 8) with
    | some i => .ok i
    | none => .error .unassignedOpcode
  else .error .reservedBitsSet

/-- The word of a command: `RSVD = 0` above its opcode (30_encoding R80, R82). -/
def encode (i : Instr) : Word := 0#24 ++ opcode i

/-- The host's view of the decoder: the command read from a table row's bits. A command is exactly one
32-bit word (R89), so a value that needs more bits names none. -/
def decodeTableWord (nbits w : Nat) : Option Instr :=
  if w % 2 ^ nbits < 4294967296 then
    match decode (BitVec.ofNat 32 (w % 2 ^ nbits)) with
    | .ok i => some i
    | .error _ => none
  else none

end Sys2Proof
end

