-- ==== Sys2Proof/Config.lean ====
section
/-! DEFINITION. What an implementation fixes (the parameters of 00_scope R8) and the free values of
93_implementation_defined (I1 to I6). A free value has no body: no proof can see what it is. -/

namespace Sys2Proof

/-- `SUBBYTE_SCAN_POLICY` (00_scope R8, 42_scan_order R176). -/
inductive SubbyteScanPolicy where
  | fault
  | passthrough
  deriving DecidableEq, Repr

/-- The parameters of 00_scope R8. They are constant: no step changes them. The host fixes the types of
`exec` and `step`, so they stand in State, and a statement over all states is over all parameters. -/
structure Params where
  /-- `MAX_PIXELS`, the capacity of the frame RAM in pixels. -/
  maxPixels : Nat
  /-- `SUBBYTE_SCAN_POLICY`. -/
  subbyteScan : SubbyteScanPolicy
  /-- `BASE`, the host address of offset 0 of the window. -/
  base : Nat
  deriving DecidableEq, Repr

namespace Config

/-- The parameter values of State.reset. `MAX_PIXELS` and `BASE` are OPEN in 00_scope R8: DESIGN CHOICE,
the largest legal capacity and address 0 (log entry 1, unsafe). `FAULT` is the spec's default. -/
def resetParams : Params := ⟨1048576, .fault, 0⟩

/-- Free value, safe: the word a read returns where 20_memory R69, R65 or 70_reset R250 leave it
unspecified; the argument is the draw counter of State (93 I2, I3, I4; log entry 5). -/
opaque freeWord : Nat → Word

/-- Free value, safe: byte `k` of the frame RAM after the `n`-th hardware reset (93 I1, I5; log entry 2). -/
opaque powerOnFrame : (n k : Nat) → Byte

/-- Free value, safe: byte `k` of the palette RAM after the `n`-th hardware reset (93 I1; log entry 2). -/
opaque powerOnPalette : (n k : Nat) → Byte

/-- Free value, safe: byte `k` of the output RAM after the `n`-th hardware reset (93 I1; log entry 2). -/
opaque powerOnOutput : (n k : Nat) → Byte

/-- Free value, safe: how many host events come between an acceptance and its completion, where State's
`schedule` gives no choice: some finite number (44_pipeline R214, 70_reset R260, 93 I6; log entry 4). -/
opaque completionDelay : Nat → Nat

end Config

end Sys2Proof
end

