-- ==== Sys2Proof/Machine/State.lean ====
section
/-! DEFINITION. The state of the block (10_state R20 to R45), the environment the model steps it with, the
ways a step can stop, and the state after reset. Every record is plain data. -/

namespace Sys2Proof.Machine

/-! ### Values of register fields -/

/-- `FORMAT.RGB_ORDER`: the component order, first to last (30_encoding R86). -/
inductive RgbOrder where
  | rgb | rbg | grb | gbr | brg | bgr
  deriving DecidableEq, Repr

/-- `SCAN.MODE` (30_encoding R85). -/
inductive ScanMode where
  /-- 0 -/
  | horizontal
  /-- 1 -/
  | vertical
  /-- 2, horizontal-reverse-byte-vertical -/
  | horizontalReverse
  /-- 3, data-vertical-byte-horizontal -/
  | dataVertical
  deriving DecidableEq, Repr

/-- `SCAN.BYTE_ORDER` (10_state R27). -/
inductive ByteOrder where
  | msb | lsb
  deriving DecidableEq, Repr

/-- `SCAN.BIT_ORDER` (10_state R27). -/
inductive BitOrder where
  | msbFirst | lsbFirst
  deriving DecidableEq, Repr

/-- `PRE_CTRL.DITHER` (10_state R28). -/
inductive Dither where
  | off
  /-- Floyd–Steinberg -/
  | errorDiffusion
  /-- Bayer 4×4 -/
  | ordered
  deriving DecidableEq, Repr

/-- `HDR_CTRL.PAL_SRC` (10_state R32). -/
inductive PalSource where
  | rgb332
  | grayscale
  /-- the palette RAM -/
  | caller
  deriving DecidableEq, Repr

/-! ### Registers -/

/-- `STATUS` but for `BUSY`, which is the fullness of `pending` (10_state R24, R42). -/
structure Status where
  done : Bool
  err : Bool
  errCode : BitVec 4
  cmdOvr : Bool
  wrBusy : Bool
  outValid : Bool
  deriving DecidableEq, Repr

/-- `FORMAT` (10_state R26); a code of `RGB_ORDER` that cannot be stored has no value here. -/
structure FormatReg where
  fmt : BitVec 4
  rgbOrder : RgbOrder
  v16 : Bool
  p18 : Bool
  l12 : Bool
  deriving DecidableEq, Repr

/-- `SCAN` (10_state R27). -/
structure ScanReg where
  mode : ScanMode
  byteOrder : ByteOrder
  bitOrder : BitOrder
  deriving DecidableEq, Repr

/-- `PRE_CTRL` (10_state R28). -/
structure PreCtrl where
  resizeEn : Bool
  rot : BitVec 2
  mirrorH : Bool
  mirrorV : Bool
  brightEn : Bool
  contrastEn : Bool
  invertEn : Bool
  dither : Dither
  deriving DecidableEq, Repr

/-- `HDR_CTRL` (10_state R32). -/
structure HdrCtrl where
  hdrEn : Bool
  palEn : Bool
  palSrc : PalSource
  deriving DecidableEq, Repr

/-- The document's configuration object: the registers of 10_state R26 to R33 (00_scope R18). -/
structure ConfigRegs where
  format : FormatReg
  scan : ScanReg
  preCtrl : PreCtrl
  maxW : BitVec 16
  maxH : BitVec 16
  /-- `BRIGHTNESS`, the stored word: an s32 (R30). -/
  brightness : Word
  /-- `CONTRAST`, the stored word: an s32 (R31). -/
  contrast : Word
  hdrCtrl : HdrCtrl
  palCount : BitVec 9
  deriving DecidableEq, Repr

/-- `RES_INFO` (10_state R38). -/
structure ResInfo where
  fmt : BitVec 4
  mode : ScanMode
  /-- bit 16: the output starts with a header -/
  hasHeader : Bool
  /-- bit 17: the output holds a palette -/
  hasPalette : Bool
  deriving DecidableEq, Repr

/-- The result registers of 10_state R35 to R38. -/
structure ResultRegs where
  resW : BitVec 16
  resH : BitVec 16
  payLen : Word
  outLen : Word
  resInfo : ResInfo
  deriving DecidableEq, Repr

/-- A RAM: its written bytes as (address, byte) pairs, addresses strictly rising. A byte that is not listed
has not been written since hardware reset and reads as a free value of Config (10_state R39 to R41; log
entry 2). An entry always holds a written byte, so none equals an unlisted one. -/
abbrev Memory := List Host.Cell

/-! ### The environment -/

/-- One event of the world outside the block. Addresses are host addresses; the window stands at `BASE`
(20_memory R60). -/
inductive HostEvent where
  /-- a bus read of `width` bytes -/
  | read (addr : Nat) (width : Nat)
  /-- a bus write of `width` bytes -/
  | write (addr : Nat) (width : Nat) (value : Word)
  /-- `WAIT`: read STATUS until BUSY reads 0 (30_encoding R91); one step is one read -/
  | wait
  /-- the platform asserts the reset input (70_reset R250) -/
  | resetAssert
  /-- the platform releases the reset input (70_reset R250) -/
  | resetRelease
  deriving DecidableEq, Repr

/-- The errors a command can raise (60_exceptions R230). They end the command, never the machine. -/
inductive CmdError where
  | illegalCommand
  | unsupportedFormat
  | invalidDimension
  | unimplementedScan
  deriving DecidableEq, Repr

/-- The whole state: the block (10_state R20), its parameters, and the environment. -/
structure State where
  /-- parameters of 00_scope R8; no step changes them -/
  params : Params
  /-- STATUS (R24), BUSY apart -/
  status : Status
  /-- FRAME_W (R25) -/
  frameW : BitVec 16
  /-- FRAME_H (R25) -/
  frameH : BitVec 16
  /-- FORMAT to PAL_COUNT (R26 to R33) -/
  cfg : ConfigRegs
  /-- RES_W to RES_INFO (R35 to R38) -/
  result : ResultRegs
  /-- frame RAM (R39): byte `4i + k` is channel `k` (r, g, b, a) of entry `i` -/
  frame : Memory
  /-- palette RAM (R40): byte `3e + c` is channel `c` (r, g, b) of entry `e` -/
  palette : Memory
  /-- output RAM (R41) -/
  output : Memory
  /-- PENDING (R42) -/
  pending : Option Word
  /-- the reset input is asserted (70_reset R250) -/
  inReset : Bool
  /-- model's own: what the host and the platform still do, oldest first (log entry 3) -/
  hostQueue : List HostEvent
  /-- model's own: the words the host's reads returned, oldest first (log entry 3) -/
  readLog : List Word
  /-- model's own: the delays of the coming acceptances (93 I6; log entry 4) -/
  schedule : List Nat
  /-- model's own: host events still to come before the pending completion (log entry 4) -/
  delayLeft : Nat
  /-- model's own: the counter of free-value draws (log entry 5) -/
  draws : Nat
  /-- model's own: how many hardware resets came before; it names the RAMs' power-on contents (log entry 2) -/
  powerOnEpoch : Nat
  deriving DecidableEq, Repr

/-- How a step stops with a fault. Both come from a host access only; no command faults. -/
inductive Fault where
  /-- 20_memory R62, 60_exceptions R238: a host access that is not 32 bits wide or not at a multiple of 4 gets
  a bus error. Raised by the host port; the block's state is unchanged. Safe: the model stops the host program
  where the block would go on. -/
  | busError (addr : Nat) (width : Nat)
  /-- 20_memory R60: the address is outside the block's window, so the access is no access to the block.
  Raised by the host port. Safe: the model stops (log entry 8). -/
  | outsideWindow (addr : Nat)
  deriving DecidableEq, Repr

/-- How a step refuses. -/
inductive Refusal where
  /-- Raised by exec's arm of a command that has no meaning yet; no arm raises it now. Safe. -/
  | notModelled (mnemonic : String)
  deriving DecidableEq, Repr

/-! ### Reset -/

/-- Every configuration register at 0 (10_state R45, 70_reset R251). -/
def ConfigRegs.zero : ConfigRegs where
  format := ⟨0#4, .rgb, false, false, false⟩
  scan := ⟨.horizontal, .msb, .msbFirst⟩
  preCtrl := ⟨false, 0#2, false, false, false, false, false, .off⟩
  maxW := 0#16
  maxH := 0#16
  brightness := 0#32
  contrast := 0#32
  hdrCtrl := ⟨false, false, .rgb332⟩
  palCount := 0#9

/-- Every result register at 0 (10_state R45). -/
def ResultRegs.zero : ResultRegs where
  resW := 0#16
  resH := 0#16
  payLen := 0#32
  outLen := 0#32
  resInfo := ⟨0#4, .horizontal, false, false⟩

/-- STATUS at 0 (10_state R45). -/
def Status.zero : Status := ⟨false, false, 0#4, false, false, false⟩

/-- The machine right after hardware reset (10_state R45, 70_reset R251): every register 0, PENDING empty,
nothing written in the RAMs, the reset input released. Parameters, environment and counters: DESIGN CHOICE
(log entries 1 to 5). -/
def State.reset : State where
  params := Config.resetParams
  status := Status.zero
  frameW := 0#16
  frameH := 0#16
  cfg := ConfigRegs.zero
  result := ResultRegs.zero
  frame := []
  palette := []
  output := []
  pending := none
  inReset := false
  hostQueue := []
  readLog := []
  schedule := []
  delayLeft := 0
  draws := 0
  powerOnEpoch := 0

end Sys2Proof.Machine
end

