-- ==== Sys2Proof/Machine/Arith.lean ====
section
/-! DEFINITION. The arithmetic of 00_scope R10 and R11, on exact integers, and the byte lanes of a word
(20_memory R68). -/

namespace Sys2Proof.Machine

/-- `floor_div(a, d)` for `d > 0` (00_scope R10). -/
def floorDiv (a d : Int) : Int := a / d

/-- `round_half_up(n, d)` for `d > 0` (00_scope R10). -/
def roundHalfUp (n d : Int) : Int := floorDiv (2 * n + d) (2 * d)

/-- `ceil_div(n, d)` on naturals, `d > 0` (00_scope R10; `Laws.ceilDiv_eq_spec` gives R10's own form). -/
def ceilDiv (n d : Nat) : Nat := (n + (d - 1)) / d

/-- `clamp(v, lo, hi)` (00_scope R10). -/
def clamp (v lo hi : Int) : Int := if v < lo then lo else if v > hi then hi else v

/-- `clamp8(v)`, as the byte it is stored in (00_scope R10). -/
def clamp8 (v : Int) : Byte := BitVec.ofInt 8 (clamp v 0 255)

/-- `u32(clamp(s(w), -255, 255))`, the WARL mapping of BRIGHTNESS and CONTRAST (10_state R30, R31). -/
def clampSigned255 (w : Word) : Word := BitVec.ofInt 32 (clamp w.toInt (-255) 255)

/-- Byte lane `j` of a word: bits `8j+7 : 8j` (20_memory R68). -/
def lane (w : Word) (j : Nat) : Byte := w.extractLsb' (8 * j) 8

/-- The four byte lanes of a word, lowest offset first (20_memory R68). -/
def lanes (w : Word) : List Byte := [lane w 0, lane w 1, lane w 2, lane w 3]

/-- The word whose lanes are the given bytes, lowest offset first (20_memory R68). -/
def wordOfLanes (b0 b1 b2 b3 : Byte) : Word := b3 ++ b2 ++ b1 ++ b0

/-- A 2-byte little-endian field (43_header_framer R193, R198). -/
def le16 (n : Nat) : List Byte := [BitVec.ofNat 8 n, BitVec.ofNat 8 (n / 256)]

/-- A one-bit field. -/
def bit (b : Bool) : BitVec 1 := BitVec.ofBool b

end Sys2Proof.Machine
end

