-- ==== Sys2Proof/Machine/Codes.lean ====
section
/-! DEFINITION. The numbers of the enumerated values (30_encoding R84 to R87) and the formats' table
(41_quantize_pack R140). -/

namespace Sys2Proof.Machine

/-- The ten colour formats (30_encoding R84). -/
inductive Format where
  | mono | gray4 | gray16 | grayscale | color256 | color4096 | color16bit | color18bit | color24bit
  | color32bit
  deriving DecidableEq, Repr

/-- `FORMAT.FMT` to the format; codes 10 to 15 are unsupported (30_encoding R84, 41 R158). -/
def formatOfCode (c : BitVec 4) : Option Format :=
  match c.toNat with
  | 0 => some .mono
  | 1 => some .gray4
  | 2 => some .gray16
  | 3 => some .grayscale
  | 4 => some .color256
  | 5 => some .color4096
  | 6 => some .color16bit
  | 7 => some .color18bit
  | 8 => some .color24bit
  | 9 => some .color32bit
  | _ => none

/-- Header byte 1 (43_header_framer R192), the document's bits-per-pixel column (30_encoding R84). -/
def bitsPerPixel : Format → Nat
  | .mono => 1
  | .gray4 => 2
  | .gray16 => 4
  | .grayscale => 8
  | .color256 => 8
  | .color4096 => 12
  | .color16bit => 16
  | .color18bit => 18
  | .color24bit => 24
  | .color32bit => 32

/-- The gray class takes the 6-byte header, the colour class the 8-byte one (41_quantize_pack R140). -/
def isGrayClass : Format → Bool
  | .mono | .gray4 | .gray16 | .grayscale => true
  | .color256 | .color4096 | .color16bit | .color18bit | .color24bit | .color32bit => false

/-- `packed(fmt, l12)` (41_quantize_pack R140, 42_scan_order R180). -/
def isPacked (f : Format) (l12 : Bool) : Bool :=
  match f with
  | .mono | .gray4 | .gray16 => true
  | .color4096 => !l12
  | .grayscale | .color256 | .color16bit | .color18bit | .color24bit | .color32bit => false

/-- Bytes of a pixel group; a packed layout has none (41_quantize_pack R140, R162). -/
def groupBytes (f : Format) (l12 : Bool) : Option Nat :=
  match f with
  | .mono | .gray4 | .gray16 => none
  | .grayscale | .color256 => some 1
  | .color4096 => if l12 then some 2 else none
  | .color16bit => some 2
  | .color18bit | .color24bit => some 3
  | .color32bit => some 4

/-- The number of a scan mode (30_encoding R85). -/
def scanModeCode : ScanMode → BitVec 2
  | .horizontal => 0#2
  | .vertical => 1#2
  | .horizontalReverse => 2#2
  | .dataVertical => 3#2

/-- The scan mode of a number (30_encoding R85). -/
def scanModeOfCode (c : BitVec 2) : ScanMode :=
  if c = 0#2 then .horizontal else if c = 1#2 then .vertical else if c = 2#2 then .horizontalReverse
  else .dataVertical

/-- 0 `msb`, 1 `lsb` (30_encoding R87). -/
def byteOrderCode : ByteOrder → Bool
  | .msb => false
  | .lsb => true

def byteOrderOfCode (b : Bool) : ByteOrder := if b then .lsb else .msb

/-- 0 MSB-first, 1 LSB-first (30_encoding R87). -/
def bitOrderCode : BitOrder → Bool
  | .msbFirst => false
  | .lsbFirst => true

def bitOrderOfCode (b : Bool) : BitOrder := if b then .lsbFirst else .msbFirst

/-- The number of a component order (30_encoding R86). -/
def rgbOrderCode : RgbOrder → BitVec 3
  | .rgb => 0#3
  | .rbg => 1#3
  | .grb => 2#3
  | .gbr => 3#3
  | .brg => 4#3
  | .bgr => 5#3

/-- 6 and 7 are not storable (30_encoding R86). -/
def rgbOrderOfCode (c : BitVec 3) : Option RgbOrder :=
  match c.toNat with
  | 0 => some .rgb
  | 1 => some .rbg
  | 2 => some .grb
  | 3 => some .gbr
  | 4 => some .brg
  | 5 => some .bgr
  | _ => none

/-- The number of a dither choice (30_encoding R87). -/
def ditherCode : Dither → BitVec 2
  | .off => 0#2
  | .errorDiffusion => 1#2
  | .ordered => 2#2

/-- 3 is not storable (30_encoding R87). -/
def ditherOfCode (c : BitVec 2) : Option Dither :=
  if c = 0#2 then some .off else if c = 1#2 then some .errorDiffusion
  else if c = 2#2 then some .ordered else none

/-- The number of a palette source (30_encoding R87). -/
def palSourceCode : PalSource → BitVec 2
  | .rgb332 => 0#2
  | .grayscale => 1#2
  | .caller => 2#2

/-- 3 is not storable (30_encoding R87). -/
def palSourceOfCode (c : BitVec 2) : Option PalSource :=
  if c = 0#2 then some .rgb332 else if c = 1#2 then some .grayscale
  else if c = 2#2 then some .caller else none

/-- The code of an error in `STATUS.ERR_CODE` (60_exceptions R230). -/
def errorCode : CmdError → BitVec 4
  | .illegalCommand => 1#4
  | .unsupportedFormat => 2#4
  | .invalidDimension => 3#4
  | .unimplementedScan => 4#4

end Sys2Proof.Machine
end

