-- ==== Sys2Proof/Machine/Flags.lean ====
section
/-! DEFINITION. Every computation of STATUS's flags (10_state R24, 44_pipeline R211, R215, R217, 60_exceptions
R233, R235, 70_reset R257, R258). -/

namespace Sys2Proof.Machine

/-- `STATUS.BUSY`: the pending slot is full (10_state R24, R42). -/
def State.busy (s : State) : Bool := s.pending.isSome

/-- STATUS as a read returns it; reserved bits read 0 (10_state R24). -/
def State.statusWord (s : State) : Word :=
  0#15 ++ bit s.status.outValid ++ 0#6 ++ bit s.status.wrBusy ++ bit s.status.cmdOvr ++ s.status.errCode ++ 0#1
    ++ bit s.status.err ++ bit s.status.done ++ bit s.busy

/-- A write of `w` to STATUS: only the W1C bits named by the 1 bits of `w` change, and a 1 at ERR also sets
ERR_CODE to 0 (10_state R24). -/
def Status.writeOneToClear (st : Status) (w : Word) : Status where
  done := st.done && !w.getLsbD 1
  err := st.err && !w.getLsbD 2
  errCode := if w.getLsbD 2 then 0#4 else st.errCode
  cmdOvr := st.cmdOvr && !w.getLsbD 8
  wrBusy := st.wrBusy && !w.getLsbD 9
  outValid := st.outValid

/-- Acceptance clears DONE, ERR and ERR_CODE (44_pipeline R211). -/
def Status.onAccept (st : Status) : Status := { st with done := false, err := false, errCode := 0#4 }

/-- A successful completion: DONE is 1, ERR and ERR_CODE are 0 (44_pipeline R215; log entry 6). -/
def Status.onSuccess (st : Status) : Status := { st with done := true, err := false, errCode := 0#4 }

/-- A completion that raised `e` (44_pipeline R215, 60_exceptions R233). -/
def Status.onError (st : Status) (e : CmdError) : Status :=
  { st with done := true, err := true, errCode := errorCode e }

/-- A dropped CMD write sets CMD_OVR (70_reset R257). -/
def Status.onOverrun (st : Status) : Status := { st with cmdOvr := true }

/-- A dropped configuration, frame or palette write sets WR_BUSY (70_reset R258). -/
def Status.onDroppedWrite (st : Status) : Status := { st with wrBusy := true }

/-- STATUS after SRESET, `0x00000002`: DONE alone (44_pipeline R217). -/
def Status.afterSoftReset : Status := { Status.zero with done := true }

end Sys2Proof.Machine
end

