-- ==== Sys2Proof/Machine/Ops.lean ====
section
/-! DEFINITION. The named operations over the RAMs and the registers, and the lifecycle's shared operations:
acceptance, completion with success, completion with an error (the block's only exception), soft and hardware
reset. -/

namespace Sys2Proof.Machine

/-! ### One RAM -/

/-- The byte written last at an address, if any. -/
def Memory.get? : Memory → Nat → Option Byte
  | [], _ => none
  | (k, v) :: rest, a => if k = a then some v else Memory.get? rest a

/-- Bytes laid out from an address on. -/
def Memory.block : Nat → List Byte → Memory
  | _, [] => []
  | base, v :: rest => (base, v) :: Memory.block (base + 1) rest

/-- Write `bytes` at `base`, `base + 1`, …; every other address keeps its value. -/
def Memory.write (m : Memory) (base : Nat) (bytes : List Byte) : Memory :=
  m.filter (fun c => decide (c.1 < base)) ++ Memory.block base bytes
    ++ m.filter (fun c => decide (base + bytes.length ≤ c.1))

/-- The canonical form: addresses strictly rising, each at least `lo` and below `size`. -/
def Memory.wfFrom (size : Nat) : Nat → Memory → Bool
  | _, [] => true
  | lo, (k, _) :: rest => lo ≤ k && k < size && Memory.wfFrom size (k + 1) rest

/-- A RAM of `size` bytes in canonical form. -/
def Memory.wf (size : Nat) (m : Memory) : Bool := Memory.wfFrom size 0 m

/-! ### The three RAMs -/

/-- Bytes of the frame RAM (10_state R39). -/
def frameRamBytes (p : Params) : Nat := 4 * p.maxPixels

/-- `OUT_CAP` (10_state R41). -/
def outCap (p : Params) : Nat := 4 * p.maxPixels + 778

/-- Bytes of the palette RAM (10_state R40, 20_memory R66). -/
def paletteRamBytes : Nat := 768

/-- Byte `k` of the frame RAM; unwritten, its power-on value (10_state R39, 70_reset R255). -/
def State.frameByte (s : State) (k : Nat) : Byte :=
  (Memory.get? s.frame k).getD (Config.powerOnFrame s.powerOnEpoch k)

/-- Byte `P[k]` of the palette RAM (20_memory R66). -/
def State.paletteByte (s : State) (k : Nat) : Byte :=
  (Memory.get? s.palette k).getD (Config.powerOnPalette s.powerOnEpoch k)

/-- `OUT[k]` (10_state R41). -/
def State.outputByte (s : State) (k : Nat) : Byte :=
  (Memory.get? s.output k).getD (Config.powerOnOutput s.powerOnEpoch k)

/-! ### The command lifecycle -/

/-- The engine takes `w`: PENDING is full, and the next completion is `delay` host events away (44_pipeline
R211; log entry 4). -/
def State.setPending (s : State) (w : Word) (delay : Nat) : State :=
  { s with pending := some w, delayLeft := delay }

/-- Acceptance of a command word (44_pipeline R211): PENDING takes it, DONE, ERR and ERR_CODE are cleared,
nothing else of the block changes. The scheduler's choice comes from `schedule`, or is a free value where
that list is used up (93 I6; log entry 4). This is also the block's return from an error (60_exceptions R235). -/
def State.accept (s : State) (w : Word) : State :=
  match s.schedule with
  | d :: rest => { s with status := s.status.onAccept, pending := some w, schedule := rest, delayLeft := d }
  | [] => { s with
      status := s.status.onAccept
      pending := some w
      delayLeft := Config.completionDelay s.draws
      draws := s.draws + 1 }

/-- The end of a completion whose body succeeded (44_pipeline R215). -/
def State.completeOk (s : State) : State :=
  { s with status := s.status.onSuccess, pending := none, delayLeft := 0 }

/-- The end of a completion whose body raised `e`: the block's one exception. Nothing but STATUS and PENDING
changes (44_pipeline R215, 60_exceptions R233). -/
def State.completeError (s : State) (e : CmdError) : State :=
  { s with status := s.status.onError e, pending := none, delayLeft := 0 }

/-- A completion of the state `s` with a body's outcome: the state the body wrote, or the error it raised,
with none of its writes (44_pipeline R215). -/
def State.complete (s : State) (body : Except CmdError State) : State :=
  match body with
  | .ok t => t.completeOk
  | .error e => s.completeError e

/-- SRESET (44_pipeline R217): every register 0, STATUS 0x2, PENDING empty, the RAMs kept. -/
def State.softReset (s : State) : State :=
  { s with
    status := Status.afterSoftReset
    frameW := 0#16
    frameH := 0#16
    cfg := ConfigRegs.zero
    result := ResultRegs.zero
    pending := none
    delayLeft := 0 }

/-- Release of the reset input (70_reset R250): every register at its reset value, PENDING empty, the RAMs at
new unspecified contents. Parameters and environment stay. -/
def State.hardReset (s : State) : State :=
  { State.reset with
    params := s.params
    hostQueue := s.hostQueue
    readLog := s.readLog
    schedule := s.schedule
    draws := s.draws
    powerOnEpoch := s.powerOnEpoch + 1 }

end Sys2Proof.Machine
end

