-- ==== Sys2Proof/Machine/Control.lean ====
section
/-! DEFINITION. The control commands NOP and SRESET (44_pipeline R216, R217). -/

namespace Sys2Proof.Machine

/-- NOP: no body; the completion's STATUS effects only (44_pipeline R216). -/
def execNop (s : State) : Host.Outcome State Fault Refusal := .next s.completeOk

/-- SRESET: its own STATUS value in place of R215's (44_pipeline R217). -/
def execSreset (s : State) : Host.Outcome State Fault Refusal := .next s.softReset

end Sys2Proof.Machine
end

