-- ==== Sys2Proof/Machine/Operands.lean ====
section
/-! DEFINITION. The operand forms of the commands (30_encoding R88): the frame as an image (00_scope R12,
40_preprocess R102), the signed registers, the palette RAM's entries, and the frame's write-back. -/

namespace Sys2Proof.Machine

/-- A pixel: four bytes (00_scope R12). -/
structure Pixel where
  r : Byte
  g : Byte
  b : Byte
  a : Byte
  deriving DecidableEq, Repr

/-- An image: dimensions, and the pixel at each index, row-major (00_scope R12). An image is a value of one
completion, never a part of State. -/
structure Image where
  W : Nat
  H : Nat
  px : Nat → Pixel

/-- `img(x, y)` (00_scope R12). -/
def Image.pixel (img : Image) (x y : Nat) : Pixel := img.px (y * img.W + x)

/-- The `W × H` image whose pixel at `(x, y)` is `f x y`. -/
def Image.tabulate (W H : Nat) (f : Nat → Nat → Pixel) : Image := ⟨W, H, fun i => f (i % W) (i / W)⟩

/-- The pixels of an image in raster order. -/
def Image.toList (img : Image) : List Pixel := (List.range (img.W * img.H)).map img.px

/-- A pixel's bytes in the frame RAM: r, g, b, a (20_memory R64). -/
def Pixel.bytes (p : Pixel) : List Byte := [p.r, p.g, p.b, p.a]

/-- `FRAME[i]` (10_state R39). -/
def State.framePixel (s : State) (i : Nat) : Pixel :=
  ⟨s.frameByte (4 * i), s.frameByte (4 * i + 1), s.frameByte (4 * i + 2), s.frameByte (4 * i + 3)⟩

/-- `PAL[e]` of the palette RAM, as r, g, b (10_state R40). -/
def State.paletteEntry (s : State) (e : Nat) : List Byte :=
  [s.paletteByte (3 * e), s.paletteByte (3 * e + 1), s.paletteByte (3 * e + 2)]

/-- The frame is a valid image (60_exceptions R231 (a)). -/
def State.frameValid (s : State) : Bool :=
  s.frameW.toNat ≠ 0 && s.frameH.toNat ≠ 0 && s.frameW.toNat * s.frameH.toNat ≤ s.params.maxPixels

/-- The frame RAM and its dimensions as an image (10_state R39). -/
def State.frameImage (s : State) : Image := ⟨s.frameW.toNat, s.frameH.toNat, s.framePixel⟩

/-- `frame()` (40_preprocess R102): the frame, or InvalidDimension (60_exceptions R231). -/
def State.readFrame (s : State) : Except CmdError Image :=
  if s.frameValid then .ok s.frameImage else .error .invalidDimension

/-- The bytes `write_frame` stores. -/
def Image.bytes (img : Image) : List Byte := img.toList.flatMap Pixel.bytes

/-- `write_frame(img)` (40_preprocess R102): dimensions and entries `0 .. W*H-1`; other entries stay. -/
def State.writeFrame (s : State) (img : Image) : State :=
  { s with
    frameW := BitVec.ofNat 16 img.W
    frameH := BitVec.ofNat 16 img.H
    frame := Memory.write s.frame 0 img.bytes }

/-- `s32(BRIGHTNESS)` (10_state R30, 30_encoding R88). -/
def ConfigRegs.brightnessValue (c : ConfigRegs) : Int := c.brightness.toInt

/-- `s32(CONTRAST)` (10_state R31, 30_encoding R88). -/
def ConfigRegs.contrastValue (c : ConfigRegs) : Int := c.contrast.toInt

/-- A stage command: read the frame, apply an operation, write the result back, and complete (40_preprocess
section 1's template). -/
def State.runStage (s : State) (op : Image → Except CmdError Image) : State :=
  s.complete (do
    let img ← s.readFrame
    let img2 ← op img
    return s.writeFrame img2)

end Sys2Proof.Machine
end

