-- ==== Sys2Proof/Machine/Framer.lean ====
section
/-! DEFINITION. The lcd_header_framer unit: headers and palettes (43_header_framer R191 to R202). -/

namespace Sys2Proof.Machine

/-- The scan byte, header byte 0 (43_header_framer R191). -/
def scanByte (c : ConfigRegs) : Byte :=
  bit c.preCtrl.mirrorV ++ bit c.preCtrl.mirrorH ++ bit (bitOrderCode c.scan.bitOrder)
    ++ bit (byteOrderCode c.scan.byteOrder) ++ 0#2 ++ scanModeCode c.scan.mode

/-- The format-variant flag, HEADCOLOR byte 6 (43_header_framer R197). -/
def variantFlag (f : Format) (r : FormatReg) : Byte :=
  match f with
  | .color16bit => if r.v16 then 0#8 else 1#8
  | .color4096 => if r.l12 then 1#8 else 0#8
  | .color18bit => if r.p18 then 1#8 else 0#8
  | .color256 | .color24bit | .color32bit => 0#8
  | .mono | .gray4 | .gray16 | .grayscale => 0#8

/-- The component identifiers of an order, first to last: R = 1, G = 2, B = 3 (43_header_framer R196). -/
def componentIds (o : RgbOrder) : BitVec 2 × BitVec 2 × BitVec 2 :=
  match o with
  | .rgb => (1#2, 2#2, 3#2)
  | .rbg => (1#2, 3#2, 2#2)
  | .grb => (2#2, 1#2, 3#2)
  | .gbr => (2#2, 3#2, 1#2)
  | .brg => (3#2, 1#2, 2#2)
  | .bgr => (3#2, 2#2, 1#2)

/-- The order the RGB-order byte records: `RGB_ORDER` for the formats that own it, else R, G, B
(43_header_framer R196). -/
def headerOrder (f : Format) (o : RgbOrder) : RgbOrder :=
  match f with
  | .color24bit | .color32bit => o
  | .mono | .gray4 | .gray16 | .grayscale | .color256 | .color4096 | .color16bit | .color18bit => .rgb

/-- The RGB-order byte, HEADCOLOR byte 7 (43_header_framer R196). -/
def rgbByte (o : RgbOrder) : Byte :=
  0#2 ++ (componentIds o).1 ++ (componentIds o).2.1 ++ (componentIds o).2.2

/-- HEADGRAY, the first six bytes of either header (43_header_framer R191 to R194). -/
def headGray (f : Format) (c : ConfigRegs) (W H : Nat) : List Byte :=
  [scanByte c, BitVec.ofNat 8 (bitsPerPixel f)] ++ le16 W ++ le16 H

/-- HEADCOLOR (43_header_framer R195). -/
def headColor (f : Format) (c : ConfigRegs) (W H : Nat) : List Byte :=
  headGray f c W H ++ [variantFlag f c.format, rgbByte (headerOrder f c.format.rgbOrder)]

/-- The header by the format's class (43_header_framer R194, R195). -/
def header (f : Format) (c : ConfigRegs) (W H : Nat) : List Byte :=
  if isGrayClass f then headGray f c W H else headColor f c W H

/-- Presence of the header (43_header_framer R202). -/
def headerBytes (f : Format) (c : ConfigRegs) (W H : Nat) : List Byte :=
  if c.hdrCtrl.hdrEn then header f c W H else []

/-- `rep3(v)`: bit replication of 3 bits to 8 (43_header_framer R200). -/
def rep3 (v : BitVec 3) : Byte := v ++ v ++ v.extractLsb' 1 2

/-- Entry `i` of the RGB332 palette (43_header_framer R200). -/
def rgb332Entry (i : Nat) : List Byte :=
  let b := BitVec.ofNat 8 i
  [rep3 (b.extractLsb' 5 3), rep3 (b.extractLsb' 2 3),
   b.extractLsb' 0 2 ++ b.extractLsb' 0 2 ++ b.extractLsb' 0 2 ++ b.extractLsb' 0 2]

/-- Entry `i` of the linear grayscale palette (43_header_framer R201). -/
def grayEntry (i : Nat) : List Byte := [BitVec.ofNat 8 i, BitVec.ofNat 8 i, BitVec.ofNat 8 i]

/-- How many entries the palette has (43_header_framer R199 to R201). -/
def paletteCount (c : ConfigRegs) : Nat :=
  match c.hdrCtrl.palSrc with
  | .rgb332 => 256
  | .grayscale => 256
  | .caller => c.palCount.toNat

/-- Entry `e` of the palette; `ram` is the palette RAM's entry (43_header_framer R199 to R201). -/
def paletteColor (c : ConfigRegs) (ram : Nat → List Byte) (e : Nat) : List Byte :=
  match c.hdrCtrl.palSrc with
  | .rgb332 => rgb332Entry e
  | .grayscale => grayEntry e
  | .caller => ram e

/-- The palette's serialisation: a 2-byte little-endian count, then the triples (43_header_framer R198). -/
def paletteTable (c : ConfigRegs) (ram : Nat → List Byte) : List Byte :=
  le16 (paletteCount c) ++ (List.range (paletteCount c)).flatMap (paletteColor c ram)

/-- Presence of the palette: color256 with PAL_EN (43_header_framer R202). -/
def palettePart (f : Format) (c : ConfigRegs) (ram : Nat → List Byte) : List Byte :=
  if f = .color256 ∧ c.hdrCtrl.palEn = true then paletteTable c ram else []

end Sys2Proof.Machine
end

