-- ==== Sys2Proof/Machine/Preprocess.lean ====
section
/-! DEFINITION. The image_preprocessor unit (40_preprocess): its operations as pure functions, and the nine
commands that apply them to the frame. -/

namespace Sys2Proof.Machine

/-- Unweighted luminance (40_preprocess R101). -/
def lumMean (p : Pixel) : Nat := (p.r.toNat + p.g.toNat + p.b.toNat) / 3

/-- One function on the R, G and B channels of every pixel; alpha stays. -/
def Image.mapRgb (img : Image) (f : Byte → Byte) : Image :=
  { img with px := fun i => ⟨f (img.px i).r, f (img.px i).g, f (img.px i).b, (img.px i).a⟩ }

/-! ### Resize -/

/-- The dimensions of an image that does not fit (40_preprocess R104), never above the maxima (R124). -/
def resizeDims (W H mw mh : Nat) : Nat × Nat :=
  if W * mh ≥ H * mw then (mw, (roundHalfUp (H * mw : Nat) W).toNat)
  else ((roundHalfUp (W * mh : Nat) H).toNat, mh)

/-- Nearest-neighbour sampling to `W' × H'` (40_preprocess R105). -/
def resample (img : Image) (W' H' : Nat) : Image :=
  Image.tabulate W' H' (fun x y => img.pixel (x * img.W / W') (y * img.H / H'))

/-- `resize(img, mw, mh)` (40_preprocess R103 to R105); its result stays within `mw` and `mh` (R124). -/
def resize (img : Image) (mw mh : Nat) : Except CmdError Image :=
  if img.W ≤ mw ∧ img.H ≤ mh then .ok img
  else
    let d := resizeDims img.W img.H mw mh
    if d.1 = 0 ∨ d.2 = 0 then .error .invalidDimension else .ok (resample img d.1 d.2)

/-! ### Rotate and mirror -/

/-- `rotate(img, k)`, clockwise by `90° * k` (40_preprocess R107); rotations compose modulo 4 (R124). -/
def rotate (img : Image) (k : BitVec 2) : Image :=
  if k = 0#2 then img
  else if k = 1#2 then Image.tabulate img.H img.W (fun x y => img.pixel y (img.H - 1 - x))
  else if k = 2#2 then Image.tabulate img.W img.H (fun x y => img.pixel (img.W - 1 - x) (img.H - 1 - y))
  else Image.tabulate img.H img.W (fun x y => img.pixel (img.W - 1 - y) x)

/-- `mirror(img, h, v)` (40_preprocess R109); it undoes itself (R124). -/
def mirror (img : Image) (h v : Bool) : Image :=
  Image.tabulate img.W img.H (fun x y =>
    img.pixel (if h then img.W - 1 - x else x) (if v then img.H - 1 - y else y))

/-! ### Brightness, contrast, invert -/

/-- One channel of `bright` (40_preprocess R111), never moved against the sign of `b` (R124). -/
def brightChannel (b : Int) (v : Byte) : Byte := clamp8 (v.toNat + b)

/-- `bright(img, b)` (40_preprocess R111); it moves no mean channel value against the sign of `b` (R124). -/
def bright (img : Image) (b : Int) : Image := img.mapRgb (brightChannel b)

/-- The sum of one channel over an image: `W * H` times the channel's mean value, the measure of R124's brightness law
(40_preprocess R124). -/
def Image.channelTotal (img : Image) (channel : Pixel → Byte) : Nat :=
  (img.toList.map (fun p => (channel p).toNat)).sum

/-- `cval(v, c)` (40_preprocess R112). -/
def cval (c : Int) (v : Byte) : Byte :=
  clamp8 (roundHalfUp (259 * (c + 255) * (v.toNat - 128)) (255 * (259 - c)) + 128)

/-- `contrast(img, c)` (40_preprocess R112). -/
def contrast (img : Image) (c : Int) : Image := img.mapRgb (cval c)

/-- `invert(img)` (40_preprocess R115); it undoes itself (R124). -/
def invert (img : Image) : Image := img.mapRgb (fun v => 255#8 - v)

/-! ### Error diffusion -/

/-- What error diffusion computes at one pixel (40_preprocess R117): the accumulated error read there, the
value thresholded, the level written and the error left. -/
structure FsPixel where
  acc : Int
  old : Int
  new : Int
  err : Int
  deriving DecidableEq, Repr

/-- The error accumulator by position (10_state R43), and the pixels quantized so far, in raster order. -/
structure FsState where
  E : List Int
  done : List FsPixel
  deriving DecidableEq, Repr

/-- `E[i] += v`. -/
def addAt : List Int → Nat → Int → List Int
  | [], _, _ => []
  | e :: es, 0, v => (e + v) :: es
  | e :: es, i + 1, v => e :: addAt es i v

/-- The pixel at raster index `k`, given the accumulator (40_preprocess R117). -/
def fsPixel (img : Image) (E : List Int) (k : Nat) : FsPixel :=
  let acc := E.getD k 0
  let old := (lumMean (img.px k) : Int) + acc
  let new : Int := if old ≥ 128 then 255 else 0
  ⟨acc, old, new, old - new⟩

/-- The four shares of an error, each rounded toward minus infinity; a share aimed outside the image is
dropped (40_preprocess R117). -/
def fsSpread (W H : Nat) (E : List Int) (k : Nat) (err : Int) : List Int :=
  let x := k % W
  let y := k / W
  let E := if x + 1 < W then addAt E (k + 1) (floorDiv (7 * err) 16) else E
  let E := if 1 ≤ x ∧ y + 1 < H then addAt E (k + W - 1) (floorDiv (3 * err) 16) else E
  let E := if y + 1 < H then addAt E (k + W) (floorDiv (5 * err) 16) else E
  if x + 1 < W ∧ y + 1 < H then addAt E (k + W + 1) (floorDiv (1 * err) 16) else E

/-- One pixel of the raster loop (40_preprocess R117). -/
def fsStep (img : Image) (st : FsState) (k : Nat) : FsState :=
  let p := fsPixel img st.E k
  ⟨fsSpread img.W img.H st.E k p.err, st.done ++ [p]⟩

/-- The loop over the first `n` pixels in raster order, from an accumulator of zeros (40_preprocess R117,
70_reset R261). -/
def fsRun (img : Image) (n : Nat) : FsState :=
  (List.range n).foldl (fsStep img) ⟨List.replicate (img.W * img.H) 0, []⟩

/-- Every pixel's computation, in raster order. -/
def fsTrace (img : Image) : List FsPixel := (fsRun img (img.W * img.H)).done

/-- `dither_fs(img)` (40_preprocess R117); R, G and B come out 0 or 255 (R124, R126). -/
def ditherFs (img : Image) : Image :=
  let levels := (fsTrace img).map (fun p => clamp8 p.new)
  { img with px := fun i => ⟨levels.getD i 0#8, levels.getD i 0#8, levels.getD i 0#8, (img.px i).a⟩ }

/-! ### Ordered dithering -/

/-- The 4×4 matrix `M[y mod 4][x mod 4]` (40_preprocess R119). -/
def bayerMatrix (x y : Nat) : Nat :=
  (([[0, 8, 2, 10], [12, 4, 14, 6], [3, 11, 1, 9], [15, 7, 13, 5]] : List (List Nat)).getD (y % 4) []).getD
    (x % 4) 0

/-- The level of a luminance at `(x, y)` (40_preprocess R119). -/
def bayerLevel (lum x y : Nat) : Byte := if lum ≥ 16 * bayerMatrix x y + 8 then 255#8 else 0#8

/-- `dither_bayer(img)` (40_preprocess R119); R, G and B come out 0 or 255 (R124, R126). -/
def ditherBayer (img : Image) : Image :=
  Image.tabulate img.W img.H (fun x y =>
    let p := img.pixel x y
    let n := bayerLevel (lumMean p) x y
    ⟨n, n, n, p.a⟩)

/-! ### The fixed order -/

/-- The resize step of `preprocess`. -/
def preResize (c : ConfigRegs) (img : Image) : Except CmdError Image :=
  if c.preCtrl.resizeEn then resize img c.maxW.toNat c.maxH.toNat else .ok img

/-- The brightness, contrast and invert steps of `preprocess`. -/
def preTonal (c : ConfigRegs) (img : Image) : Image :=
  let img := if c.preCtrl.brightEn then bright img c.brightnessValue else img
  let img := if c.preCtrl.contrastEn then contrast img c.contrastValue else img
  if c.preCtrl.invertEn then invert img else img

/-- The dither step of `preprocess`: the mono format only (40_preprocess R122). -/
def preDither (c : ConfigRegs) (img : Image) : Image :=
  if c.format.fmt = 0#4 then
    match c.preCtrl.dither with
    | .off => img
    | .errorDiffusion => ditherFs img
    | .ordered => ditherBayer img
  else img

/-- `preprocess(img, cfg)`: the requested operations in the fixed order (40_preprocess R122). -/
def preprocess (c : ConfigRegs) (img : Image) : Except CmdError Image := do
  let img ← preResize c img
  return preDither c (preTonal c (mirror (rotate img c.preCtrl.rot) c.preCtrl.mirrorH c.preCtrl.mirrorV))

/-! ### The commands -/

/-- RESIZE (40_preprocess R106). -/
def execResize (s : State) : Host.Outcome State Fault Refusal :=
  .next (s.runStage (fun img => resize img s.cfg.maxW.toNat s.cfg.maxH.toNat))

/-- ROTATE (40_preprocess R108). -/
def execRotate (s : State) : Host.Outcome State Fault Refusal :=
  .next (s.runStage (fun img => .ok (rotate img s.cfg.preCtrl.rot)))

/-- MIRROR (40_preprocess R110). -/
def execMirror (s : State) : Host.Outcome State Fault Refusal :=
  .next (s.runStage (fun img => .ok (mirror img s.cfg.preCtrl.mirrorH s.cfg.preCtrl.mirrorV)))

/-- ADJ_BRIGHT (40_preprocess R113). -/
def execAdjBright (s : State) : Host.Outcome State Fault Refusal :=
  .next (s.runStage (fun img => .ok (bright img s.cfg.brightnessValue)))

/-- ADJ_CONTRAST (40_preprocess R114). -/
def execAdjContrast (s : State) : Host.Outcome State Fault Refusal :=
  .next (s.runStage (fun img => .ok (contrast img s.cfg.contrastValue)))

/-- INVERT (40_preprocess R116). -/
def execInvert (s : State) : Host.Outcome State Fault Refusal :=
  .next (s.runStage (fun img => .ok (invert img)))

/-- DITHER_FS (40_preprocess R120). -/
def execDitherFs (s : State) : Host.Outcome State Fault Refusal :=
  .next (s.runStage (fun img => .ok (ditherFs img)))

/-- DITHER_BAYER (40_preprocess R121). -/
def execDitherBayer (s : State) : Host.Outcome State Fault Refusal :=
  .next (s.runStage (fun img => .ok (ditherBayer img)))

/-- PREPROCESS (40_preprocess R123). -/
def execPreprocess (s : State) : Host.Outcome State Fault Refusal :=
  .next (s.runStage (preprocess s.cfg))

end Sys2Proof.Machine
end

