-- ==== Sys2Proof/Machine/Quantize.lean ====
section
/-! DEFINITION. The format_quantizer unit: one value per pixel (41_quantize_pack R141 to R153). -/

namespace Sys2Proof.Machine

/-- Weighted luminance (41_quantize_pack R141). -/
def lum601 (p : Pixel) : Nat := (299 * p.r.toNat + 587 * p.g.toNat + 114 * p.b.toNat + 500) / 1000

/-! ### Codes of the packed formats -/

/-- mono (41_quantize_pack R142). -/
def codeMono (p : Pixel) : Nat := if lumMean p ≥ 128 then 1 else 0

/-- gray4 (41_quantize_pack R143). -/
def codeGray4 (p : Pixel) : Nat := lumMean p / 2 ^ 6

/-- gray16 (41_quantize_pack R144). -/
def codeGray16 (p : Pixel) : Nat := lumMean p / 2 ^ 4

/-- The 12-bit code of color4096: red, green, blue from the top (41_quantize_pack R147). -/
def code12 (p : Pixel) : BitVec 12 := p.r.extractLsb' 4 4 ++ p.g.extractLsb' 4 4 ++ p.b.extractLsb' 4 4

/-! ### Groups of the byte-aligned formats, before byte order -/

/-- grayscale (41_quantize_pack R145). -/
def groupGrayscale (p : Pixel) : List Byte := [BitVec.ofNat 8 (lum601 p)]

/-- color256: bits 7:5 red, 4:2 green, 1:0 blue (41_quantize_pack R146). -/
def groupColor256 (p : Pixel) : List Byte :=
  [p.r.extractLsb' 5 3 ++ p.g.extractLsb' 5 3 ++ p.b.extractLsb' 6 2]

/-- color4096 in 16-bit words: `[c12[11:8], c12[7:0]]` (41_quantize_pack R149). -/
def groupColor4096 (p : Pixel) : List Byte :=
  [0#4 ++ (code12 p).extractLsb' 8 4, (code12 p).extractLsb' 0 8]

/-- The RGB565 or RGB555 word (41_quantize_pack R150). -/
def word16 (v16 : Bool) (p : Pixel) : BitVec 16 :=
  if v16 then 0#1 ++ p.r.extractLsb' 3 5 ++ p.g.extractLsb' 3 5 ++ p.b.extractLsb' 3 5
  else p.r.extractLsb' 3 5 ++ p.g.extractLsb' 2 6 ++ p.b.extractLsb' 3 5

/-- color16bit, big-endian (41_quantize_pack R150). -/
def groupColor16 (v16 : Bool) (p : Pixel) : List Byte :=
  [(word16 v16 p).extractLsb' 8 8, (word16 v16 p).extractLsb' 0 8]

/-- A 6-bit component in the low or the high bits of its byte (41_quantize_pack R151). -/
def place6 (p18 : Bool) (v : Byte) : Byte :=
  if p18 then v.extractLsb' 2 6 ++ 0#2 else 0#2 ++ v.extractLsb' 2 6

/-- color18bit (41_quantize_pack R151). -/
def groupColor18 (p18 : Bool) (p : Pixel) : List Byte := [place6 p18 p.r, place6 p18 p.g, place6 p18 p.b]

/-- The components in the order of `RGB_ORDER` (30_encoding R86). -/
def ordered (o : RgbOrder) (p : Pixel) : List Byte :=
  match o with
  | .rgb => [p.r, p.g, p.b]
  | .rbg => [p.r, p.b, p.g]
  | .grb => [p.g, p.r, p.b]
  | .gbr => [p.g, p.b, p.r]
  | .brg => [p.b, p.r, p.g]
  | .bgr => [p.b, p.g, p.r]

/-- color24bit (41_quantize_pack R152). -/
def groupColor24 (o : RgbOrder) (p : Pixel) : List Byte := ordered o p

/-- color32bit: alpha last, unchanged (41_quantize_pack R153). -/
def groupColor32 (o : RgbOrder) (p : Pixel) : List Byte := ordered o p ++ [p.a]

end Sys2Proof.Machine
end

