-- ==== Sys2Proof/Machine/ScanOrder.lean ====
section
/-! DEFINITION. The scan_order_transform unit: the pixel order of a scan mode, and byte and bit order
(42_scan_order R170 to R179). -/

namespace Sys2Proof.Machine

/-- `order(mode, W, H)[k]` as `(x, y)` (42_scan_order R171 to R174). -/
def scanOrder (mode : ScanMode) (W H k : Nat) : Nat × Nat :=
  match mode with
  | .horizontal => (k % W, k / W)
  | .vertical => (k / H, k % H)
  | .horizontalReverse => (k % W, H - 1 - k / W)
  | .dataVertical => (k % W, k / W)

/-- The pixels of an image in scan order (42_scan_order R180's `seq`). -/
def scanSeq (mode : ScanMode) (img : Image) : List Pixel :=
  (List.range (img.W * img.H)).map (fun k =>
    img.pixel (scanOrder mode img.W img.H k).1 (scanOrder mode img.W img.H k).2)

/-- `applyByteOrder(data, bo, n)`; a last partial group is unchanged (42_scan_order R177). -/
def applyByteOrder (data : List Byte) (bo : ByteOrder) (n : Nat) : List Byte :=
  match bo with
  | .msb => data
  | .lsb => (List.range data.length).map (fun i =>
      data.getD (if i / n * n + n ≤ data.length then i / n * n + (n - 1 - i % n) else i) 0#8)

/-- `byteorder(group)` (42_scan_order R178). -/
def byteOrderGroup (bo : ByteOrder) (group : List Byte) : List Byte :=
  match bo with
  | .msb => group
  | .lsb => group.reverse

/-- `slot(b, j, bo)`: the lowest bit of pixel `j` in its byte (41_quantize_pack R154, 42_scan_order R179). -/
def slot (b j : Nat) (bo : BitOrder) : Nat :=
  match bo with
  | .msbFirst => 8 - b * (j + 1)
  | .lsbFirst => b * j

end Sys2Proof.Machine
end

