-- ==== Sys2Proof/Machine/Pack.lean ====
section
/-! DEFINITION. The pixel_packer unit (41_quantize_pack R148, R154 to R157), payload lengths (R163) and the
payload (42_scan_order R176, R180). -/

namespace Sys2Proof.Machine

/-- `byte_k` of the sub-byte packer: the OR of the codes of its pixels, each in its slot; slots past the last
pixel are 0 (41_quantize_pack R154). -/
def packSubByte (codes : List Nat) (b : Nat) (bo : BitOrder) (k : Nat) : Byte :=
  (List.range (8 / b)).foldl (fun acc j =>
    if k * (8 / b) + j < codes.length then
      acc ||| (BitVec.ofNat 8 (codes.getD (k * (8 / b) + j) 0) <<< slot b j bo)
    else acc) 0#8

/-- `pack_sub(code, b, bo)`: bytes run on across rows (41_quantize_pack R154). -/
def packSub (codes : List Nat) (b : Nat) (bo : BitOrder) : List Byte :=
  (List.range (ceilDiv codes.length (8 / b))).map (packSubByte codes b bo)

/-- `pack_12(c)`: two codes in three bytes, a last unpaired code in two (41_quantize_pack R148, R155). -/
def pack12 : List (BitVec 12) → List Byte
  | [] => []
  | [c] => [c.extractLsb' 4 8, c.extractLsb' 0 4 ++ 0#4]
  | c0 :: c1 :: rest =>
    [c0.extractLsb' 4 8, c0.extractLsb' 0 4 ++ c1.extractLsb' 8 4, c1.extractLsb' 0 8] ++ pack12 rest

/-- `pack_bytes(seq)`: each pixel's group in byte order (41_quantize_pack R156). -/
def packBytes (group : Pixel → List Byte) (bo : ByteOrder) (seq : List Pixel) : List Byte :=
  seq.flatMap (fun p => byteOrderGroup bo (group p))

/-- `pack(FMT, opts, seq)`, the codec's dispatch (41_quantize_pack R157); each format reads its own
sub-options only (R159). -/
def pack (f : Format) (c : ConfigRegs) (seq : List Pixel) : List Byte :=
  match f with
  | .mono => packSub (seq.map codeMono) 1 c.scan.bitOrder
  | .gray4 => packSub (seq.map codeGray4) 2 c.scan.bitOrder
  | .gray16 => packSub (seq.map codeGray16) 4 c.scan.bitOrder
  | .grayscale => packBytes groupGrayscale c.scan.byteOrder seq
  | .color256 => packBytes groupColor256 c.scan.byteOrder seq
  | .color4096 =>
    if c.format.l12 then packBytes groupColor4096 c.scan.byteOrder seq else pack12 (seq.map code12)
  | .color16bit => packBytes (groupColor16 c.format.v16) c.scan.byteOrder seq
  | .color18bit => packBytes (groupColor18 c.format.p18) c.scan.byteOrder seq
  | .color24bit => packBytes (groupColor24 c.format.rgbOrder) c.scan.byteOrder seq
  | .color32bit => packBytes (groupColor32 c.format.rgbOrder) c.scan.byteOrder seq

/-- The payload's length for `n` pixels (41_quantize_pack R163). -/
def payloadLength (f : Format) (l12 : Bool) (n : Nat) : Nat :=
  match groupBytes f l12 with
  | some g => n * g
  | none => ceilDiv (n * bitsPerPixel f) 8

/-- The scan mode the payload uses: a packed format with a mode other than horizontal raises
UnimplementedScan or, under PASSTHROUGH, uses the horizontal order (42_scan_order R176). -/
def effectiveMode (p : Params) (f : Format) (c : ConfigRegs) : Except CmdError ScanMode :=
  if isPacked f c.format.l12 = true ∧ c.scan.mode ≠ .horizontal then
    match p.subbyteScan with
    | .fault => .error .unimplementedScan
    | .passthrough => .ok .horizontal
  else .ok c.scan.mode

/-- `payload(img, regs)` (42_scan_order R180). -/
def payload (p : Params) (f : Format) (c : ConfigRegs) (img : Image) : Except CmdError (List Byte) := do
  let mode ← effectiveMode p f c
  return pack f c (scanSeq mode img)

end Sys2Proof.Machine
end

