-- ==== Sys2Proof/Machine/Pipeline.lean ====
section
/-! DEFINITION. ENCODE and CONVERT (44_pipeline R218 to R220): the document's Pipeline over the five units. -/

namespace Sys2Proof.Machine

/-- The three parts of an output sequence (43_header_framer R190). -/
structure Encoded where
  hdr : List Byte
  pal : List Byte
  pay : List Byte
  deriving DecidableEq, Repr

/-- `hdr ++ pal ++ pay` (43_header_framer R190). -/
def Encoded.bytes (e : Encoded) : List Byte := e.hdr ++ e.pal ++ e.pay

/-- `frame_out(img, regs)` in its parts (43_header_framer R203); it raises at most UnimplementedScan. -/
def frameOut (p : Params) (f : Format) (c : ConfigRegs) (ram : Nat → List Byte) (img : Image) :
    Except CmdError Encoded := do
  let pay ← payload p f c img
  return ⟨headerBytes f c img.W img.H, palettePart f c ram, pay⟩

/-- RES_INFO of a result (44_pipeline R220). -/
def resInfoOf (c : ConfigRegs) (e : Encoded) : ResInfo :=
  ⟨c.format.fmt, c.scan.mode, !e.hdr.isEmpty, !e.pal.isEmpty⟩

/-- The writes of `encode` once the payload is known (44_pipeline R220); bytes past the sequence stay. -/
def State.storeResult (s : State) (img : Image) (e : Encoded) : State :=
  { s with
    output := Memory.write s.output 0 e.bytes
    result := {
      resW := BitVec.ofNat 16 img.W
      resH := BitVec.ofNat 16 img.H
      payLen := BitVec.ofNat 32 e.pay.length
      outLen := BitVec.ofNat 32 e.bytes.length
      resInfo := resInfoOf s.cfg e }
    status := { s.status with outValid := true } }

/-- `encode(img, regs)` (44_pipeline R220). -/
def State.encodeImage (s : State) (f : Format) (img : Image) : Except CmdError State := do
  let e ← frameOut s.params f s.cfg s.paletteEntry img
  return s.storeResult img e

/-- The check ENCODE and CONVERT make before any other (41_quantize_pack R158, 60_exceptions R234). -/
def State.readFormat (s : State) : Except CmdError Format :=
  match formatOfCode s.cfg.format.fmt with
  | some f => .ok f
  | none => .error .unsupportedFormat

/-- ENCODE and CONVERT: format check, frame, an operation on the private copy, encode (44_pipeline R218,
R219). -/
def State.runEncode (s : State) (op : Image → Except CmdError Image) : State :=
  s.complete (do
    let f ← s.readFormat
    let img ← s.readFrame
    let img2 ← op img
    s.encodeImage f img2)

/-- ENCODE: the frame as it is (44_pipeline R218). -/
def execEncode (s : State) : Host.Outcome State Fault Refusal := .next (s.runEncode (fun img => .ok img))

/-- CONVERT: the preprocessed frame (44_pipeline R219). -/
def execConvert (s : State) : Host.Outcome State Fault Refusal := .next (s.runEncode (preprocess s.cfg))

end Sys2Proof.Machine
end

