-- ==== Sys2Proof/Machine/Dispatch.lean ====
section
/-! DEFINITION. One arm per command: the body of its completion (44_pipeline R212, R214). -/

namespace Sys2Proof.Machine

def exec (i : Instr) (s : State) : Host.Outcome State Fault Refusal :=
  match i with
  | .nop => Sys2Proof.Machine.execNop s
  | .sreset => Sys2Proof.Machine.execSreset s
  | .resize => Sys2Proof.Machine.execResize s
  | .rotate => Sys2Proof.Machine.execRotate s
  | .mirror => Sys2Proof.Machine.execMirror s
  | .adjBright => Sys2Proof.Machine.execAdjBright s
  | .adjContrast => Sys2Proof.Machine.execAdjContrast s
  | .invert => Sys2Proof.Machine.execInvert s
  | .ditherFs => Sys2Proof.Machine.execDitherFs s
  | .ditherBayer => Sys2Proof.Machine.execDitherBayer s
  | .preprocess => Sys2Proof.Machine.execPreprocess s
  | .encode => Sys2Proof.Machine.execEncode s
  | .convert => Sys2Proof.Machine.execConvert s

end Sys2Proof.Machine
end

