-- ==== Sys2Proof/Machine/Registers.lean ====
section
/-! DEFINITION. The register page (10_state R22 to R38, R44): the map from offsets to registers, and the one
operation that reads a register and the one that stores a configuration register. -/

namespace Sys2Proof.Machine

/-- The registers of 10_state section 2's map. -/
inductive RegName where
  | id | cmd | status | frameW | frameH | format | scan | preCtrl | maxW | maxH | brightness | contrast
  | hdrCtrl | palCount | resW | resH | payLen | outLen | resInfo
  deriving DecidableEq, Repr

/-- The offset of a register (10_state section 2). -/
def regOffset : RegName → Nat
  | .id => 0x00
  | .cmd => 0x04
  | .status => 0x08
  | .frameW => 0x0C
  | .frameH => 0x10
  | .format => 0x14
  | .scan => 0x18
  | .preCtrl => 0x1C
  | .maxW => 0x20
  | .maxH => 0x24
  | .brightness => 0x28
  | .contrast => 0x2C
  | .hdrCtrl => 0x30
  | .palCount => 0x34
  | .resW => 0x38
  | .resH => 0x3C
  | .payLen => 0x40
  | .outLen => 0x44
  | .resInfo => 0x48

/-- The register at an offset of the register page; 0x4C to 0xFC are reserved (10_state R34). -/
def regAt (off : Nat) : Option RegName :=
  match off with
  | 0x00 => some .id
  | 0x04 => some .cmd
  | 0x08 => some .status
  | 0x0C => some .frameW
  | 0x10 => some .frameH
  | 0x14 => some .format
  | 0x18 => some .scan
  | 0x1C => some .preCtrl
  | 0x20 => some .maxW
  | 0x24 => some .maxH
  | 0x28 => some .brightness
  | 0x2C => some .contrast
  | 0x30 => some .hdrCtrl
  | 0x34 => some .palCount
  | 0x38 => some .resW
  | 0x3C => some .resH
  | 0x40 => some .payLen
  | 0x44 => some .outLen
  | 0x48 => some .resInfo
  | _ => none

/-- The value of ID (10_state R22). -/
def idValue : Word := 0x49324C01#32

/-- FORMAT as read; reserved bits 0 (10_state R26). -/
def FormatReg.toWord (r : FormatReg) : Word :=
  0#21 ++ bit r.l12 ++ bit r.p18 ++ bit r.v16 ++ 0#1 ++ rgbOrderCode r.rgbOrder ++ r.fmt

/-- FORMAT after a write of `w`; RGB_ORDER 6 and 7 leave that field unchanged (10_state R26). -/
def FormatReg.store (r : FormatReg) (w : Word) : FormatReg where
  fmt := w.extractLsb' 0 4
  rgbOrder := (rgbOrderOfCode (w.extractLsb' 4 3)).getD r.rgbOrder
  v16 := w.getLsbD 8
  p18 := w.getLsbD 9
  l12 := w.getLsbD 10

/-- SCAN as read (10_state R27). -/
def ScanReg.toWord (r : ScanReg) : Word :=
  0#26 ++ bit (bitOrderCode r.bitOrder) ++ bit (byteOrderCode r.byteOrder) ++ 0#2 ++ scanModeCode r.mode

/-- SCAN after a write of `w` (10_state R27). -/
def ScanReg.ofWord (w : Word) : ScanReg where
  mode := scanModeOfCode (w.extractLsb' 0 2)
  byteOrder := byteOrderOfCode (w.getLsbD 4)
  bitOrder := bitOrderOfCode (w.getLsbD 5)

/-- PRE_CTRL as read (10_state R28). -/
def PreCtrl.toWord (r : PreCtrl) : Word :=
  0#22 ++ ditherCode r.dither ++ bit r.invertEn ++ bit r.contrastEn ++ bit r.brightEn ++ bit r.mirrorV
    ++ bit r.mirrorH ++ r.rot ++ bit r.resizeEn

/-- PRE_CTRL after a write of `w`; DITHER 3 leaves that field unchanged (10_state R28). -/
def PreCtrl.store (r : PreCtrl) (w : Word) : PreCtrl where
  resizeEn := w.getLsbD 0
  rot := w.extractLsb' 1 2
  mirrorH := w.getLsbD 3
  mirrorV := w.getLsbD 4
  brightEn := w.getLsbD 5
  contrastEn := w.getLsbD 6
  invertEn := w.getLsbD 7
  dither := (ditherOfCode (w.extractLsb' 8 2)).getD r.dither

/-- HDR_CTRL as read (10_state R32). -/
def HdrCtrl.toWord (r : HdrCtrl) : Word := 0#28 ++ palSourceCode r.palSrc ++ bit r.palEn ++ bit r.hdrEn

/-- HDR_CTRL after a write of `w`; PAL_SRC 3 leaves that field unchanged (10_state R32). -/
def HdrCtrl.store (r : HdrCtrl) (w : Word) : HdrCtrl where
  hdrEn := w.getLsbD 0
  palEn := w.getLsbD 1
  palSrc := (palSourceOfCode (w.extractLsb' 2 2)).getD r.palSrc

/-- What a write of `w` stores in PAL_COUNT: `min(w, 256)` (10_state R33). -/
def palCountOf (w : Word) : BitVec 9 := BitVec.ofNat 9 (min w.toNat 256)

/-- RES_INFO as read (10_state R38). -/
def ResInfo.toWord (r : ResInfo) : Word :=
  0#14 ++ bit r.hasPalette ++ bit r.hasHeader ++ 0#6 ++ scanModeCode r.mode ++ 0#4 ++ r.fmt

/-- The value a read of a register returns, busy or not (20_memory R63, R69). -/
def State.readReg (s : State) : RegName → Word
  | .id => idValue
  | .cmd => 0#32
  | .status => s.statusWord
  | .frameW => s.frameW.setWidth 32
  | .frameH => s.frameH.setWidth 32
  | .format => s.cfg.format.toWord
  | .scan => s.cfg.scan.toWord
  | .preCtrl => s.cfg.preCtrl.toWord
  | .maxW => s.cfg.maxW.setWidth 32
  | .maxH => s.cfg.maxH.setWidth 32
  | .brightness => s.cfg.brightness
  | .contrast => s.cfg.contrast
  | .hdrCtrl => s.cfg.hdrCtrl.toWord
  | .palCount => s.cfg.palCount.setWidth 32
  | .resW => s.result.resW.setWidth 32
  | .resH => s.result.resH.setWidth 32
  | .payLen => s.result.payLen
  | .outLen => s.result.outLen
  | .resInfo => s.result.resInfo.toWord

/-- The RW and WARL registers, offsets 0x0C to 0x34 (70_reset R258). -/
def isConfigReg : RegName → Bool
  | .frameW | .frameH | .format | .scan | .preCtrl | .maxW | .maxH | .brightness | .contrast | .hdrCtrl
  | .palCount => true
  | .id | .cmd | .status | .resW | .resH | .payLen | .outLen | .resInfo => false

/-- What an idle write of `w` stores in a configuration register; no other register is stored to (10_state
R25 to R33, R44). -/
def State.storeReg (s : State) (r : RegName) (w : Word) : State :=
  match r with
  | .frameW => { s with frameW := w.extractLsb' 0 16 }
  | .frameH => { s with frameH := w.extractLsb' 0 16 }
  | .format => { s with cfg := { s.cfg with format := s.cfg.format.store w } }
  | .scan => { s with cfg := { s.cfg with scan := ScanReg.ofWord w } }
  | .preCtrl => { s with cfg := { s.cfg with preCtrl := s.cfg.preCtrl.store w } }
  | .maxW => { s with cfg := { s.cfg with maxW := w.extractLsb' 0 16 } }
  | .maxH => { s with cfg := { s.cfg with maxH := w.extractLsb' 0 16 } }
  | .brightness => { s with cfg := { s.cfg with brightness := clampSigned255 w } }
  | .contrast => { s with cfg := { s.cfg with contrast := clampSigned255 w } }
  | .hdrCtrl => { s with cfg := { s.cfg with hdrCtrl := s.cfg.hdrCtrl.store w } }
  | .palCount => { s with cfg := { s.cfg with palCount := palCountOf w } }
  | .id | .cmd | .status | .resW | .resH | .payLen | .outLen | .resInfo => s

/-- A dropped write while busy (70_reset R258). -/
def State.dropWrite (s : State) : State := { s with status := s.status.onDroppedWrite }

/-- A write to CMD: accepted when idle (44_pipeline R211), dropped with CMD_OVR when busy (70_reset R257). -/
def State.writeCmd (s : State) (w : Word) : State :=
  if s.busy then { s with status := s.status.onOverrun } else s.accept w

/-- A write to a register (20_memory R63). -/
def State.writeReg (s : State) (r : RegName) (w : Word) : State :=
  match r with
  | .cmd => s.writeCmd w
  | .status => { s with status := s.status.writeOneToClear w }
  | r => if isConfigReg r then (if s.busy then s.dropWrite else s.storeReg r w) else s

end Sys2Proof.Machine
end

