-- ==== Sys2Proof/Machine/HostPort.lean ====
section
/-! DEFINITION. The host port: the address map and what a 32-bit read and write do at each offset (20_memory
R60 to R69, 70_reset R257 to R259). -/

namespace Sys2Proof.Machine

/-- The regions of 20_memory R61. -/
inductive Region where
  | registers
  | palette
  | frame
  | output
  | reserved
  deriving DecidableEq, Repr

/-- The bytes of the window (20_memory R60). -/
def windowBytes : Nat := 16777216

/-- Offset of the palette window (20_memory R61). -/
def paletteBase : Nat := 0x400

/-- Offset of the frame window (20_memory R61). -/
def frameBase : Nat := 0x100000

/-- Offset of the output window (20_memory R61). -/
def outputBase : Nat := 0x800000

/-- The region of an offset (20_memory R61). -/
def regionOf (off : Nat) : Region :=
  if off < 0x100 then .registers
  else if off < 0x400 then .reserved
  else if off < 0x700 then .palette
  else if off < 0x100000 then .reserved
  else if off < 0x500000 then .frame
  else if off < 0x800000 then .reserved
  else if off < 0xD00000 then .output
  else .reserved

/-- A host address's offset in the window, if the access is one the block performs: inside the window (20_memory
R60; log entry 8), 32 bits wide and at a multiple of 4 (R62). -/
def accessOffset (p : Params) (addr width : Nat) : Except Fault Nat :=
  if addr < p.base ∨ p.base + windowBytes ≤ addr then .error (.outsideWindow addr)
  else if width ≠ 4 ∨ (addr - p.base) % 4 ≠ 0 then .error (.busError addr width)
  else .ok (addr - p.base)

/-- Word `m` of the palette window (20_memory R66). -/
def State.paletteWord (s : State) (m : Nat) : Word :=
  wordOfLanes (s.paletteByte (4 * m)) (s.paletteByte (4 * m + 1)) (s.paletteByte (4 * m + 2))
    (s.paletteByte (4 * m + 3))

/-- Word `i` of the frame window of an idle block; past MAX_PIXELS it reads 0 (20_memory R64). -/
def State.frameWord (s : State) (i : Nat) : Word :=
  if i < s.params.maxPixels then
    wordOfLanes (s.frameByte (4 * i)) (s.frameByte (4 * i + 1)) (s.frameByte (4 * i + 2))
      (s.frameByte (4 * i + 3))
  else 0#32

/-- Output byte `k` as an idle block's read returns it: `OUT[k]` below OUT_LEN, 0 from OUT_CAP on, and
unspecified, a lane of the free word `u`, between (20_memory R65, 92 D41; log entry 9). -/
def State.outputLane (s : State) (u : Word) (k : Nat) : Byte :=
  if outCap s.params ≤ k then 0#8
  else if k < s.result.outLen.toNat then s.outputByte k
  else lane u (k % 4)

/-- Word `m` of the output window of an idle block, `u` being this read's free word (20_memory R65). -/
def State.outputWord (s : State) (u : Word) (m : Nat) : Word :=
  wordOfLanes (s.outputLane u (4 * m)) (s.outputLane u (4 * m + 1)) (s.outputLane u (4 * m + 2))
    (s.outputLane u (4 * m + 3))

/-- `MemRead(off, 4)`, `u` being the free word of this read: frame and output window reads are unspecified
while busy (20_memory R63 to R67, R69; log entry 9). -/
def State.readWord (s : State) (u : Word) (off : Nat) : Word :=
  match regionOf off with
  | .registers =>
    match regAt off with
    | some r => s.readReg r
    | none => 0#32
  | .palette => s.paletteWord ((off - paletteBase) / 4)
  | .frame => if s.busy then u else s.frameWord ((off - frameBase) / 4)
  | .output => if s.busy then u else s.outputWord u ((off - outputBase) / 4)
  | .reserved => 0#32

/-- An idle write to the palette window (20_memory R66). -/
def State.storePalette (s : State) (m : Nat) (w : Word) : State :=
  { s with palette := Memory.write s.palette (4 * m) (lanes w) }

/-- An idle write to the frame window (20_memory R64). -/
def State.storeFrame (s : State) (i : Nat) (w : Word) : State :=
  { s with frame := Memory.write s.frame (4 * i) (lanes w) }

/-- `MemWrite(off, 4, w)` (20_memory R63 to R67, 70_reset R257, R258, 92 D44; log entry 10). -/
def State.writeWord (s : State) (off : Nat) (w : Word) : State :=
  match regionOf off with
  | .registers =>
    match regAt off with
    | some r => s.writeReg r w
    | none => s
  | .palette => if s.busy then s.dropWrite else s.storePalette ((off - paletteBase) / 4) w
  | .frame =>
    if (off - frameBase) / 4 < s.params.maxPixels then
      (if s.busy then s.dropWrite else s.storeFrame ((off - frameBase) / 4) w)
    else s
  | .output => s
  | .reserved => s

/-! ### One event of the environment -/

/-- The event at the head of the queue is done; it used one of the host events before the completion. -/
def State.popEvent (s : State) (rest : List HostEvent) : State :=
  { s with hostQueue := rest, delayLeft := s.delayLeft - 1 }

/-- The word this step's read returns: unspecified while the reset input is asserted (70_reset R250). -/
def State.busRead (s : State) (off : Nat) : Word :=
  if s.inReset then Config.freeWord s.draws else s.readWord (Config.freeWord s.draws) off

/-- A host read: its word goes to the host, nothing of the block changes (20_memory R71). -/
def State.doRead (s : State) (rest : List HostEvent) (off : Nat) : State :=
  { s.popEvent rest with readLog := s.readLog ++ [s.busRead off], draws := s.draws + 1 }

/-- A host write; while the reset input is asserted it has no effect (70_reset R250). -/
def State.doWrite (s : State) (rest : List HostEvent) (off : Nat) (w : Word) : State :=
  if s.inReset then s.popEvent rest else (s.popEvent rest).writeWord off w

/-- One poll of `WAIT`: the host goes on when BUSY reads 0, else it polls again (30_encoding R91; log entry 11). -/
def State.doWait (s : State) (rest : List HostEvent) : State :=
  let v := s.busRead (regOffset .status)
  { s.popEvent (if v.getLsbD 0 then s.hostQueue else rest) with draws := s.draws + 1 }

/-- One event of the environment, the head of the queue. A bus error stops the host program (20_memory R62; log
entry 12). -/
def State.hostEvent (s : State) (e : HostEvent) (rest : List HostEvent) : Host.Outcome State Fault Refusal :=
  match e with
  | .read addr width =>
    match accessOffset s.params addr width with
    | .ok off => .next (s.doRead rest off)
    | .error f => .fault f
  | .write addr width w =>
    match accessOffset s.params addr width with
    | .ok off => .next (s.doWrite rest off w)
    | .error f => .fault f
  | .wait => .next (s.doWait rest)
  | .resetAssert => .next { s.popEvent rest with inReset := true }
  | .resetRelease => .next (if s.inReset then (s.popEvent rest).hardReset else s.popEvent rest)

end Sys2Proof.Machine
end

