-- ==== Sys2Proof/Machine/Engine.lean ====
section
/-! DEFINITION. The two agents' next event (44_pipeline R210, R214, 20_memory R70, R73): a completion by the
engine, or one event of the environment. -/

namespace Sys2Proof.Machine

/-- The completion of an accepted word: it is decoded now (44_pipeline R212); an illegal word raises
IllegalCommand and does nothing else (30_encoding R81, R83). -/
def State.engineEvent (s : State) (w : Word) : Host.Outcome State Fault Refusal :=
  match Sys2Proof.decode w with
  | .ok i => exec i s
  | .error _ => .next (s.completeError .illegalCommand)

/-- The next event of the single total order (20_memory R73). While the reset input is asserted only the
environment acts (70_reset R250; log entry 7). A busy engine completes once no host event is left before its
completion, or when the host does nothing more (70_reset R260). An idle block with an idle host waits
(60_exceptions R245). -/
def State.nextEvent (s : State) : Host.Outcome State Fault Refusal :=
  match s.inReset, s.pending, s.hostQueue with
  | true, _, e :: rest => s.hostEvent e rest
  | true, _, [] => .next s
  | false, some w, [] => s.engineEvent w
  | false, some w, e :: rest => if s.delayLeft = 0 then s.engineEvent w else s.hostEvent e rest
  | false, none, e :: rest => s.hostEvent e rest
  | false, none, [] => .next s

/-- `s` with a command word taken as the very next event: PENDING full, no host event before its completion,
the reset input released (log entry 3). -/
def State.placeCommand (s : State) (w : Word) : State := { s.setPending w 0 with inReset := false }

end Sys2Proof.Machine
end

