-- ==== Sys2Proof/Machine/Step.lean ====
section
/-! DEFINITION. One step of the machine: one event of the total order of 20_memory R73. -/

namespace Sys2Proof.Machine

/-- One event: a completion, a host access, or a change of the reset input. -/
def step (s : State) : Host.Outcome State Fault Refusal := s.nextEvent

/-- `s` with the command word of a table row placed where the next step takes it. Commands are not fetched
(20_memory R76): the engine takes its word from PENDING, so the word is put there (log entry 3). -/
def State.withFetchWord (s : State) (nbits w : Nat) : State :=
  s.placeCommand (BitVec.ofNat 32 (w % 2 ^ nbits))

end Sys2Proof.Machine
end

