-- ==== Sys2Proof/Machine/HostProgram.lean ====
section
/-! DEFINITION. Host programs: the lines of 30_encoding R90 and their expansion to bus events (R91). -/

namespace Sys2Proof.Machine

/-- A line of a host program (30_encoding R90). -/
inductive HostLine where
  /-- `W off, val` -/
  | W (off : Nat) (val : Word)
  /-- `R off` -/
  | R (off : Nat)
  /-- `CMD mnemonic` -/
  | CMD (i : Instr)
  /-- `WAIT` -/
  | WAIT
  /-- `PIX i, r, g, b, a` -/
  | PIX (i : Nat) (r g b a : Byte)
  deriving DecidableEq, Repr

/-- The host address of an offset: the window stands at BASE (20_memory R60). -/
def hostAddress (p : Params) (off : Nat) : Nat := p.base + off

/-- The bus event of a line (30_encoding R90, R91). -/
def HostLine.expand (p : Params) : HostLine → HostEvent
  | .W off val => .write (hostAddress p off) 4 val
  | .R off => .read (hostAddress p off) 4
  | .CMD i => .write (hostAddress p (regOffset .cmd)) 4 (Sys2Proof.encode i)
  | .WAIT => .wait
  | .PIX i r g b a => .write (hostAddress p (frameBase + 4 * i)) 4 (wordOfLanes r g b a)

/-- A host program at the end of what the host still does. -/
def State.withHostProgram (s : State) (prog : List HostLine) : State :=
  { s with hostQueue := s.hostQueue ++ prog.map (HostLine.expand s.params) }

end Sys2Proof.Machine
end

