-- ==== Sys2Proof/WellFormed.lean ====
section
/-! DEFINITION. What is well formed: a command (always), a command word's reserved field (30_encoding R80)
and the parameters (00_scope R8). -/

namespace Sys2Proof

/-- A command has no operand (30_encoding R88), so each of the thirteen is well formed. -/
def Instr.wellFormed : Instr → Bool
  | .nop | .sreset | .resize | .rotate | .mirror | .adjBright | .adjContrast | .invert | .ditherFs
  | .ditherBayer | .preprocess | .encode | .convert => true

/-- 30_encoding R80: bits 31:8 of a command word must be 0. -/
def commandWordWellFormed (w : Word) : Bool := w.extractLsb' 8 24 == 0#24

/-- The legal parameter values of 00_scope R8. -/
def Params.wellFormed (p : Params) : Bool :=
  1 ≤ p.maxPixels && p.maxPixels ≤ 1048576 && p.base % 16777216 == 0

end Sys2Proof
end

