-- ==== Sys2Proof/Safety.lean ====
section
/-! DEFINITION. What counts as a safe run: the invariant of the state (10_state's ranges, 44_pipeline's lifecycle),
legal host programs, and the words the statements are made of. -/

namespace Sys2Proof.Machine

/-! ### The invariant -/

/-- Each RAM is in canonical form and within its size (10_state R39 to R41). -/
abbrev State.RamsCanonical (s : State) : Prop :=
  Memory.wf (frameRamBytes s.params) s.frame = true ∧ Memory.wf paletteRamBytes s.palette = true
    ∧ Memory.wf (outCap s.params) s.output = true

/-- The WARL ranges: BRIGHTNESS and CONTRAST in `[-255, 255]`, PAL_COUNT at most 256 (10_state R30, R31, R33). -/
abbrev State.RegistersLegal (s : State) : Prop :=
  (-255 ≤ s.cfg.brightnessValue ∧ s.cfg.brightnessValue ≤ 255)
    ∧ (-255 ≤ s.cfg.contrastValue ∧ s.cfg.contrastValue ≤ 255) ∧ s.cfg.palCount.toNat ≤ 256

/-- ERR is set exactly when ERR_CODE is not 0, codes stay at most 4, and a busy engine shows neither DONE nor ERR
(10_state R24, 44_pipeline R211, R215, 60_exceptions R230). -/
abbrev State.StatusConsistent (s : State) : Prop :=
  (s.status.err = true ↔ s.status.errCode ≠ 0#4) ∧ s.status.errCode.toNat ≤ 4
    ∧ (s.pending ≠ none → s.status.done = false ∧ s.status.err = false)

/-- With OUT_VALID 0 the result registers are 0; with OUT_VALID 1 they describe an output: a supported format, a
nonempty image within MAX_PIXELS, and a nonempty payload with at most 778 bytes before it (10_state R35 to R38,
R41). -/
abbrev State.ResultConsistent (s : State) : Prop :=
  (s.status.outValid = false → s.result = ResultRegs.zero)
    ∧ (s.status.outValid = true →
        s.result.resInfo.fmt.toNat ≤ 9 ∧ 1 ≤ s.result.resW.toNat ∧ 1 ≤ s.result.resH.toNat
          ∧ s.result.resW.toNat * s.result.resH.toNat ≤ s.params.maxPixels
          ∧ 1 ≤ s.result.payLen.toNat ∧ s.result.payLen.toNat ≤ s.result.outLen.toNat
          ∧ s.result.outLen.toNat ≤ s.result.payLen.toNat + 778 ∧ s.result.outLen.toNat ≤ outCap s.params)

/-- The invariant of every state a run from reset reaches. -/
abbrev State.Inv (s : State) : Prop :=
  s.params.wellFormed = true ∧ s.RamsCanonical ∧ s.RegistersLegal ∧ s.StatusConsistent ∧ s.ResultConsistent

/-! ### Legal host programs -/

/-- An event that is no bus error and no access outside the window (20_memory R60, R62). -/
def eventLegal (p : Params) : HostEvent → Bool
  | .read addr width | .write addr width _ =>
    match accessOffset p addr width with
    | .ok _ => true
    | .error _ => false
  | .wait | .resetAssert | .resetRelease => true

/-- An event that leaves the reset input alone. -/
def keepsReset : HostEvent → Bool
  | .resetAssert | .resetRelease => false
  | .read .. | .write .. | .wait => true

/-- Every event the host still has is legal: a safe run. -/
abbrev State.HostLegal (s : State) : Prop := s.hostQueue.all (eventLegal s.params) = true

/-! ### Words of the statements -/

/-- The frame is a valid image (60_exceptions R231 (a), the opposite of its condition). -/
abbrev State.FrameReadable (s : State) : Prop :=
  1 ≤ s.frameW.toNat ∧ 1 ≤ s.frameH.toNat ∧ s.frameW.toNat * s.frameH.toNat ≤ s.params.maxPixels

/-- The environment, the parameters and the counters are as before; only the engine's own countdown may differ. -/
abbrev SameEnvironment (s t : State) : Prop :=
  t.params = s.params ∧ t.inReset = s.inReset ∧ t.hostQueue = s.hostQueue ∧ t.readLog = s.readLog
    ∧ t.schedule = s.schedule ∧ t.draws = s.draws ∧ t.powerOnEpoch = s.powerOnEpoch

/-- `t` is a successful completion: PENDING empty, DONE 1, ERR and ERR_CODE 0 (44_pipeline R215). -/
abbrev State.Succeeded (t : State) : Prop :=
  t.pending = none ∧ t.status.done = true ∧ t.status.err = false ∧ t.status.errCode = 0#4

/-- `s` after a completion that raised the error of code `c`: PENDING empty, DONE and ERR 1, ERR_CODE `c`, and every
other field as before (60_exceptions R233). -/
def State.afterError (s : State) (c : BitVec 4) : State :=
  { s with status := { s.status with done := true, err := true, errCode := c }, pending := none, delayLeft := 0 }

/-- The nine commands of 40_preprocess. -/
def isStage (i : Instr) : Bool :=
  match i with
  | .resize | .rotate | .mirror | .adjBright | .adjContrast | .invert | .ditherFs | .ditherBayer | .preprocess => true
  | .nop | .sreset | .encode | .convert => false

end Sys2Proof.Machine
end

