-- ==== Sys2Proof/Certificates/Slice0/Obligations.lean ====
section
/-! DEFINITION. The statements for the provers, from the numbered rules of spec/. None is about a program. -/

open Sys2Proof Sys2Proof.Machine

/-! ### Encoding and the command lifecycle -/

/-- The thirteen words of 30_encoding R82 decode to their commands. -/
def Obligations.TableWordsDecode : Prop :=
  decode 0x00000000#32 = .ok .nop ∧ decode 0x00000001#32 = .ok .sreset ∧ decode 0x00000010#32 = .ok .resize
    ∧ decode 0x00000011#32 = .ok .rotate ∧ decode 0x00000012#32 = .ok .mirror
    ∧ decode 0x00000013#32 = .ok .adjBright ∧ decode 0x00000014#32 = .ok .adjContrast
    ∧ decode 0x00000015#32 = .ok .invert ∧ decode 0x00000016#32 = .ok .ditherFs
    ∧ decode 0x00000017#32 = .ok .ditherBayer ∧ decode 0x00000018#32 = .ok .preprocess
    ∧ decode 0x00000020#32 = .ok .encode ∧ decode 0x00000021#32 = .ok .convert

/-- A word decodes to a command exactly when it is that command's word: decoding undoes encoding, and no other of the
`2^32` words decodes (30_encoding R80 to R83). -/
def Obligations.DecodeEncodeAgree : Prop :=
  ∀ (w : Word) (i : Instr), decode w = .ok i ↔ w = Sys2Proof.encode i

/-- A step whose next event is the completion of the word in PENDING runs the command that word decodes to
(44_pipeline R212, R214). When a completion is the next event is the model's (log entry 4). -/
def Obligations.StepRunsDecodedCommand : Prop :=
  ∀ (s : State) (w : Word) (i : Instr), s.inReset = false → s.pending = some w →
    (s.hostQueue = [] ∨ s.delayLeft = 0) → decode w = .ok i → step s = exec i s

/-- 30_encoding R81: a word with a bit of 31:8 set, or whose bits 7:0 are no opcode, completes with IllegalCommand
(code 1) and no other effect; every other word runs its command. When a completion is the next event is the model's
choice (log entry 4). -/
def Obligations.IllegalWordsRaiseIllegalCommand : Prop :=
  ∀ (s : State) (w : Word), s.inReset = false → s.pending = some w → (s.hostQueue = [] ∨ s.delayLeft = 0) →
    ((w.extractLsb' 8 24 ≠ 0#24 ∨ ∀ i : Instr, w.extractLsb' 0 8 ≠ opcode i) → step s = .next (s.afterError 1#4))
    ∧ ∀ i : Instr, w.extractLsb' 8 24 = 0#24 → w.extractLsb' 0 8 = opcode i → step s = exec i s

/-- 44_pipeline R211: a write to CMD while idle is accepted as one step, whatever the word: PENDING takes it, BUSY is
1, DONE, ERR and ERR_CODE are 0, and nothing else of the block changes. 70_reset R257: while busy it is dropped, and
only CMD_OVR changes. That a busy block performs host events while `delayLeft` is not 0, and the fields that count
(`schedule`, `delayLeft`, `draws`), are the model's choice (log entries 4 and 5). -/
def Obligations.CommandWriteIsAccepted : Prop :=
  ∀ (s : State) (rest : List HostEvent) (w : Word), s.inReset = false →
    s.hostQueue = .write (hostAddress s.params 0x04) 4 w :: rest →
    (s.pending = none →
      ∃ t : State, step s = .next t ∧ t.pending = some w ∧ t.busy = true
        ∧ t.status = { s.status with done := false, err := false, errCode := 0#4 }
        ∧ t = { s with
            status := t.status
            pending := t.pending
            hostQueue := rest
            schedule := t.schedule
            delayLeft := t.delayLeft
            draws := t.draws })
    ∧ (s.pending ≠ none → s.delayLeft ≠ 0 →
      step s = .next { s with
        status := { s.status with cmdOvr := true }
        hostQueue := rest
        delayLeft := s.delayLeft - 1 })

/-- Every completion of 44_pipeline R215 that raised an error left everything but STATUS and PENDING as it was
(60_exceptions R233), so a failed ENCODE or CONVERT is no partial success (44_pipeline R223). -/
def Obligations.FailedCommandChangesOnlyStatus : Prop :=
  ∀ (s t : State) (w : Word), s.engineEvent w = .next t → t.status.err = true →
    t = s.afterError t.status.errCode ∧ 1 ≤ t.status.errCode.toNat ∧ t.status.errCode.toNat ≤ 4

/-- 70_reset R260: an accepted command completes after at most as many host events as the scheduler chose, for every
legal host program that leaves the reset input alone. The count of events left is the model's (log entry 4). -/
def Obligations.AcceptedCommandCompletes : Prop :=
  ∀ (s : State) (w : Word), s.pending = some w → s.inReset = false → s.HostLegal →
    s.hostQueue.all keepsReset = true →
    ∃ k : Nat, k ≤ s.delayLeft + 1 ∧ ∃ t : State, Host.Core.run Sys2Proof.core k s = .next t ∧ t.pending = none

/-- 30_encoding R91, 70_reset R260: a WAIT loop ends, when the pending command has completed. That one step is one poll
of the loop is the model's (log entries 3, 4). -/
def Obligations.WaitLoopEnds : Prop :=
  ∀ (s : State) (w : Word) (rest : List HostEvent), s.pending = some w → s.inReset = false →
    s.hostQueue = .wait :: rest →
    ∃ t : State, Host.Core.run Sys2Proof.core (s.delayLeft + 2) s = .next t ∧ t.hostQueue = rest
      ∧ t.pending = none

/-! ### Invariants -/

/-- The state after reset meets the invariant (10_state R45; the parameters are the model's choice, log entry 1). -/
def Obligations.ResetMeetsInvariant : Prop := State.reset.Inv

/-- Every step keeps the invariant: canonical RAMs within their sizes, the WARL ranges, consistent STATUS, and result
registers that describe an output that fits (10_state R24, R30, R31, R33, R35 to R41, R45). -/
def Obligations.StepKeepsInvariant : Prop :=
  ∀ s t : State, s.Inv → step s = .next t → t.Inv

/-- A legal host program (20_memory R62; accesses inside the window, log entry 8) never faults, and stays legal. -/
def Obligations.LegalHostProgramNeverFaults : Prop :=
  ∀ s : State, s.HostLegal → ∃ t : State, step s = .next t ∧ t.HostLegal

/-- The sticky bits: a step that clears CMD_OVR or WR_BUSY performs a host write of 1 to that bit, completes SRESET, or
releases the reset input (10_state R24, 70_reset R257, R258). -/
def Obligations.StickyBitsClearedOnlyAsStated : Prop :=
  ∀ s t : State, step s = .next t →
    (s.status.cmdOvr = true → t.status.cmdOvr = false →
      (∃ addr width w rest, s.hostQueue = .write addr width w :: rest ∧ t.hostQueue = rest
        ∧ accessOffset s.params addr width = .ok 0x08 ∧ w.getLsbD 8 = true)
      ∨ (s.pending = some 0x00000001#32 ∧ t.pending = none ∧ exec .sreset s = .next t)
      ∨ (s.inReset = true ∧ t.inReset = false ∧ ∃ rest, s.hostQueue = .resetRelease :: rest ∧ t.hostQueue = rest))
    ∧ (s.status.wrBusy = true → t.status.wrBusy = false →
      (∃ addr width w rest, s.hostQueue = .write addr width w :: rest ∧ t.hostQueue = rest
        ∧ accessOffset s.params addr width = .ok 0x08 ∧ w.getLsbD 9 = true)
      ∨ (s.pending = some 0x00000001#32 ∧ t.pending = none ∧ exec .sreset s = .next t)
      ∨ (s.inReset = true ∧ t.inReset = false ∧ ∃ rest, s.hostQueue = .resetRelease :: rest ∧ t.hostQueue = rest))

/-! ### Control commands -/

/-- 44_pipeline R216: NOP completes with DONE 1 and ERR 0 and leaves everything else as it was; after reset STATUS then
reads 0x2. -/
def Obligations.NopCompletes : Prop :=
  Sys2Proof.encode .nop = 0x00000000#32
    ∧ (∀ s : State, exec .nop s = .next
        { s with
          status := { s.status with done := true, err := false, errCode := 0#4 }
          pending := none
          delayLeft := 0 })
    ∧ ∃ t : State, exec .nop State.reset = .next t ∧ t.statusWord = 0x00000002#32

/-- 44_pipeline R217: SRESET sets every register to 0 and STATUS to 0x2, empties PENDING and keeps the RAMs and ID; the
result differs from a hardware reset only in DONE and in the RAMs. -/
def Obligations.SoftResetCompletes : Prop :=
  Sys2Proof.encode .sreset = 0x00000001#32
    ∧ ∀ s : State, ∃ t : State, exec .sreset s = .next t
      ∧ (∀ r : RegName, r ≠ .id → r ≠ .status → t.readReg r = 0#32) ∧ t.readReg .id = 0x49324C01#32
      ∧ t.readReg .status = 0x00000002#32 ∧ t.pending = none
      ∧ t.frame = s.frame ∧ t.palette = s.palette ∧ t.output = s.output ∧ SameEnvironment s t
      ∧ { t with
          status := { t.status with done := false }
          frame := []
          palette := []
          output := []
          inReset := false
          powerOnEpoch := s.powerOnEpoch + 1 } = s.hardReset

/-! ### Stage commands -/

/-- 40_preprocess R103 to R105, on the frame: an image that fits is unchanged; else the larger ratio binds, the other
dimension is rounded half up, a zero dimension raises InvalidDimension (code 3), and each new pixel is a sampled one. -/
def Obligations.ResizeCommand : Prop :=
  ∀ (s : State) (W H mw mh : Nat), s.FrameReadable → W = s.frameW.toNat → H = s.frameH.toNat →
    mw = s.cfg.maxW.toNat → mh = s.cfg.maxH.toNat →
    (W ≤ mw ∧ H ≤ mh →
      ∃ t : State, exec .resize s = .next t ∧ t.Succeeded ∧ t.frameW = s.frameW ∧ t.frameH = s.frameH
        ∧ ∀ i, t.framePixel i = s.framePixel i)
    ∧ ∀ W' H' : Nat, ¬ (W ≤ mw ∧ H ≤ mh) →
      (W * mh ≥ H * mw → W' = mw ∧ H' = (2 * (H * mw) + W) / (2 * W)) →
      (W * mh < H * mw → W' = (2 * (W * mh) + H) / (2 * H) ∧ H' = mh) →
      ((W' = 0 ∨ H' = 0) → exec .resize s = .next (s.afterError 3#4))
      ∧ (W' ≠ 0 → H' ≠ 0 →
        W' ≤ mw ∧ H' ≤ mh
        ∧ ∃ t : State, exec .resize s = .next t ∧ t.Succeeded ∧ t.frameW.toNat = W' ∧ t.frameH.toNat = H'
          ∧ ∀ x y, x < W' → y < H' →
            t.framePixel (y * W' + x) = s.framePixel ((y * H / H') * W + x * W / W'))

/-- 40_preprocess R124, R102: a resize never exceeds the maxima and never enlarges the image, and samples inside it. -/
def Obligations.ResizeStaysWithinBounds : Prop :=
  ∀ (img out : Image) (mw mh : Nat), 1 ≤ img.W → 1 ≤ img.H → resize img mw mh = .ok out →
    out.W ≤ mw ∧ out.H ≤ mh ∧ 1 ≤ out.W ∧ 1 ≤ out.H ∧ out.W * out.H ≤ img.W * img.H
      ∧ ∀ i, i < out.W * out.H → ∃ j, j < img.W * img.H ∧ out.px i = img.px j

/-- 40_preprocess R107, on the frame: the four rotations, clockwise. -/
def Obligations.RotateCommand : Prop :=
  ∀ (s : State) (W H : Nat), s.FrameReadable → W = s.frameW.toNat → H = s.frameH.toNat →
    ∃ t : State, exec .rotate s = .next t ∧ t.Succeeded
      ∧ (s.cfg.preCtrl.rot = 0#2 → t.frameW = s.frameW ∧ t.frameH = s.frameH
          ∧ ∀ x y, x < W → y < H → t.framePixel (y * W + x) = s.framePixel (y * W + x))
      ∧ (s.cfg.preCtrl.rot = 1#2 → t.frameW = s.frameH ∧ t.frameH = s.frameW
          ∧ ∀ x y, x < H → y < W → t.framePixel (y * H + x) = s.framePixel ((H - 1 - x) * W + y))
      ∧ (s.cfg.preCtrl.rot = 2#2 → t.frameW = s.frameW ∧ t.frameH = s.frameH
          ∧ ∀ x y, x < W → y < H → t.framePixel (y * W + x) = s.framePixel ((H - 1 - y) * W + (W - 1 - x)))
      ∧ (s.cfg.preCtrl.rot = 3#2 → t.frameW = s.frameH ∧ t.frameH = s.frameW
          ∧ ∀ x y, x < H → y < W → t.framePixel (y * H + x) = s.framePixel (x * W + (W - 1 - y)))

/-- 40_preprocess R109, on the frame: the horizontal mirror reverses each row, the vertical one the order of rows. -/
def Obligations.MirrorCommand : Prop :=
  ∀ (s : State) (W H : Nat), s.FrameReadable → W = s.frameW.toNat → H = s.frameH.toNat →
    ∃ t : State, exec .mirror s = .next t ∧ t.Succeeded ∧ t.frameW = s.frameW ∧ t.frameH = s.frameH
      ∧ ∀ x y, x < W → y < H →
        t.framePixel (y * W + x)
          = s.framePixel ((if s.cfg.preCtrl.mirrorV then H - 1 - y else y) * W
              + (if s.cfg.preCtrl.mirrorH then W - 1 - x else x))

/-- 40_preprocess R111, on the frame: BRIGHTNESS is added to R, G and B, clamped to [0, 255]; alpha is untouched. -/
def Obligations.AdjustBrightnessCommand : Prop :=
  ∀ s : State, s.FrameReadable →
    ∃ t : State, exec .adjBright s = .next t ∧ t.Succeeded ∧ t.frameW = s.frameW ∧ t.frameH = s.frameH
      ∧ ∀ i, i < s.frameW.toNat * s.frameH.toNat →
        ((t.framePixel i).r.toNat : Int) = min 255 (max 0 ((s.framePixel i).r.toNat + s.cfg.brightness.toInt))
        ∧ ((t.framePixel i).g.toNat : Int) = min 255 (max 0 ((s.framePixel i).g.toNat + s.cfg.brightness.toInt))
        ∧ ((t.framePixel i).b.toNat : Int) = min 255 (max 0 ((s.framePixel i).b.toNat + s.cfg.brightness.toInt))
        ∧ (t.framePixel i).a = (s.framePixel i).a

/-- 40_preprocess R112, on the frame: the contrast factor about 128 on R, G and B, rounded half up and clamped. -/
def Obligations.AdjustContrastCommand : Prop :=
  ∀ (s : State) (c : Int), s.FrameReadable → c = s.cfg.contrast.toInt → -255 ≤ c → c ≤ 255 →
    ∃ t : State, exec .adjContrast s = .next t ∧ t.Succeeded ∧ t.frameW = s.frameW ∧ t.frameH = s.frameH
      ∧ ∀ i, i < s.frameW.toNat * s.frameH.toNat →
        (∀ v v' : Byte, ((v, v') = ((s.framePixel i).r, (t.framePixel i).r)
            ∨ (v, v') = ((s.framePixel i).g, (t.framePixel i).g) ∨ (v, v') = ((s.framePixel i).b, (t.framePixel i).b)) →
          ∃ q : Int, -- the half-up rounding of factor * (v - 128)
            q * (2 * (255 * (259 - c))) ≤ 2 * (259 * (c + 255) * ((v.toNat : Int) - 128)) + 255 * (259 - c)
            ∧ 2 * (259 * (c + 255) * ((v.toNat : Int) - 128)) + 255 * (259 - c) < (q + 1) * (2 * (255 * (259 - c)))
            ∧ (v'.toNat : Int) = min 255 (max 0 (q + 128)))
        ∧ (t.framePixel i).a = (s.framePixel i).a

/-- 40_preprocess R115, on the frame: 255 minus each of R, G and B; alpha unchanged. -/
def Obligations.InvertCommand : Prop :=
  ∀ s : State, s.FrameReadable →
    ∃ t : State, exec .invert s = .next t ∧ t.Succeeded ∧ t.frameW = s.frameW ∧ t.frameH = s.frameH
      ∧ ∀ i, i < s.frameW.toNat * s.frameH.toNat →
        (t.framePixel i).r.toNat = 255 - (s.framePixel i).r.toNat
        ∧ (t.framePixel i).g.toNat = 255 - (s.framePixel i).g.toNat
        ∧ (t.framePixel i).b.toNat = 255 - (s.framePixel i).b.toNat
        ∧ (t.framePixel i).a = (s.framePixel i).a

/-- 40_preprocess R117, on the frame: the raster loop with its accumulator buffer computes the recurrence in which each
pixel gathers 7/16 of the left, 3/16 of the upper right, 5/16 of the upper and 1/16 of the upper left error. -/
def Obligations.ErrorDiffusionCommand : Prop :=
  ∀ (s : State) (W H : Nat), s.FrameReadable → W = s.frameW.toNat → H = s.frameH.toNat →
    ∃ (t : State) (E old new err : Nat → Nat → Int), exec .ditherFs s = .next t ∧ t.Succeeded
      ∧ t.frameW = s.frameW ∧ t.frameH = s.frameH
      ∧ ∀ x y, x < W → y < H →
        E x y = (if 1 ≤ x then 7 * err (x - 1) y / 16 else 0)
            + (if x + 1 < W ∧ 1 ≤ y then 3 * err (x + 1) (y - 1) / 16 else 0)
            + (if 1 ≤ y then 5 * err x (y - 1) / 16 else 0)
            + (if 1 ≤ x ∧ 1 ≤ y then err (x - 1) (y - 1) / 16 else 0)
        ∧ old x y = ((((s.framePixel (y * W + x)).r.toNat + (s.framePixel (y * W + x)).g.toNat
            + (s.framePixel (y * W + x)).b.toNat) / 3 : Nat) : Int) + E x y
        ∧ new x y = (if old x y ≥ 128 then 255 else 0)
        ∧ err x y = old x y - new x y
        ∧ ((t.framePixel (y * W + x)).r.toNat : Int) = new x y
        ∧ ((t.framePixel (y * W + x)).g.toNat : Int) = new x y
        ∧ ((t.framePixel (y * W + x)).b.toNat : Int) = new x y
        ∧ (t.framePixel (y * W + x)).a = (s.framePixel (y * W + x)).a

/-- 40_preprocess R118: for every image, errors lie in [-128, 127], every entry of the accumulator lies in [-128, 124]
after every number of pixels, and thresholded values lie in [-128, 379], which 10 signed bits hold. -/
def Obligations.ErrorDiffusionValuesStayInRange : Prop :=
  ∀ img : Image,
    (∀ p ∈ fsTrace img, (-128 ≤ p.err ∧ p.err ≤ 127) ∧ (-128 ≤ p.acc ∧ p.acc ≤ 124) ∧ (-128 ≤ p.old ∧ p.old ≤ 379)
      ∧ (-512 ≤ p.old ∧ p.old < 512))
    ∧ ∀ n, n ≤ img.W * img.H → ∀ e ∈ (fsRun img n).E, -128 ≤ e ∧ e ≤ 124

/-- 40_preprocess R119, on the frame: the 4×4 matrix with thresholds 16m + 8 (its entries are the spec's own general
knowledge, 93 K3). -/
def Obligations.OrderedDitherCommand : Prop :=
  ∀ (s : State) (W H : Nat), s.FrameReadable → W = s.frameW.toNat → H = s.frameH.toNat →
    ∃ t : State, exec .ditherBayer s = .next t ∧ t.Succeeded ∧ t.frameW = s.frameW ∧ t.frameH = s.frameH
      ∧ ∀ x y, x < W → y < H → ∀ n : Byte,
        n = (if (s.framePixel (y * W + x)).r.toNat + (s.framePixel (y * W + x)).g.toNat
              + (s.framePixel (y * W + x)).b.toNat
              ≥ 3 * (16 * [0, 8, 2, 10, 12, 4, 14, 6, 3, 11, 1, 9, 15, 7, 13, 5].getD (4 * (y % 4) + x % 4) 0 + 8)
            then 255#8 else 0#8) →
        t.framePixel (y * W + x) = ⟨n, n, n, (s.framePixel (y * W + x)).a⟩

/-- 40_preprocess R126: either dither command leaves R = G = B in {0, 255} and alpha as it was. -/
def Obligations.DitherOutputIsBlackOrWhite : Prop :=
  ∀ (s t : State) (i : Instr), (i = .ditherFs ∨ i = .ditherBayer) → s.FrameReadable → exec i s = .next t →
    ∀ k, k < s.frameW.toNat * s.frameH.toNat →
      ((t.framePixel k).r = 0#8 ∨ (t.framePixel k).r = 255#8) ∧ (t.framePixel k).g = (t.framePixel k).r
        ∧ (t.framePixel k).b = (t.framePixel k).r ∧ (t.framePixel k).a = (s.framePixel k).a

/-- 40_preprocess R122, R123, on the frame: the requested operations in the fixed order resize, rotate, mirror,
brightness, contrast, invert, dither; dithering for mono only. -/
def Obligations.PreprocessCommand : Prop :=
  ∀ (s : State) (i1 i2 i3 i4 i5 i6 i7 : Image), s.FrameReadable →
    (if s.cfg.preCtrl.resizeEn then resize s.frameImage s.cfg.maxW.toNat s.cfg.maxH.toNat = .ok i1
      else i1 = s.frameImage) →
    i2 = rotate i1 s.cfg.preCtrl.rot →
    i3 = mirror i2 s.cfg.preCtrl.mirrorH s.cfg.preCtrl.mirrorV →
    i4 = (if s.cfg.preCtrl.brightEn then bright i3 s.cfg.brightness.toInt else i3) →
    i5 = (if s.cfg.preCtrl.contrastEn then contrast i4 s.cfg.contrast.toInt else i4) →
    i6 = (if s.cfg.preCtrl.invertEn then invert i5 else i5) →
    i7 = (if s.cfg.format.fmt = 0#4 ∧ s.cfg.preCtrl.dither = .errorDiffusion then ditherFs i6
      else if s.cfg.format.fmt = 0#4 ∧ s.cfg.preCtrl.dither = .ordered then ditherBayer i6 else i6) →
    ∃ t : State, exec .preprocess s = .next t ∧ t.Succeeded ∧ t.frameW.toNat = i7.W ∧ t.frameH.toNat = i7.H
      ∧ ∀ i, i < i7.W * i7.H → t.framePixel i = i7.px i

/-- 60_exceptions R231 (a), R232, R233: each of the nine stage commands raises InvalidDimension on an invalid frame, and
PREPROCESS on a resize that fails; nothing but STATUS changes. -/
def Obligations.StageCommandsTrapOnInvalidDimensions : Prop :=
  (∀ (i : Instr) (s : State), isStage i = true →
      (s.frameW = 0#16 ∨ s.frameH = 0#16 ∨ s.params.maxPixels < s.frameW.toNat * s.frameH.toNat) →
      exec i s = .next (s.afterError 3#4))
    ∧ ∀ s : State, s.FrameReadable → s.cfg.preCtrl.resizeEn = true →
      resize s.frameImage s.cfg.maxW.toNat s.cfg.maxH.toNat = .error .invalidDimension →
      exec .preprocess s = .next (s.afterError 3#4)

/-- 44_pipeline R222, R226: what the nine stage commands leave alone: configuration, results, OUT_VALID and the sticky
bits, palette and output RAM, and every frame byte past the new frame; only RESIZE, ROTATE and PREPROCESS may change the
dimensions. -/
def Obligations.StageCommandFrame : Prop :=
  ∀ (i : Instr) (s t : State), isStage i = true → exec i s = .next t →
    t.cfg = s.cfg ∧ t.result = s.result ∧ t.palette = s.palette ∧ t.output = s.output ∧ t.pending = none
      ∧ t.status.outValid = s.status.outValid ∧ t.status.cmdOvr = s.status.cmdOvr
      ∧ t.status.wrBusy = s.status.wrBusy ∧ SameEnvironment s t
      ∧ (∀ k, 4 * (t.frameW.toNat * t.frameH.toNat) ≤ k → t.frameByte k = s.frameByte k)
      ∧ (t.status.err = true → t.frame = s.frame)
      ∧ (i ≠ .resize → i ≠ .rotate → i ≠ .preprocess → t.frameW = s.frameW ∧ t.frameH = s.frameH)

/-- 40_preprocess R124: rotations compose by adding their codes modulo 4, so four quarter turns are the identity. -/
def Obligations.RotationsCompose : Prop :=
  ∀ (img : Image) (a b : BitVec 2), 1 ≤ img.W → 1 ≤ img.H →
    (rotate (rotate img a) b).W = (rotate img (a + b)).W ∧ (rotate (rotate img a) b).H = (rotate img (a + b)).H
      ∧ (rotate (rotate img a) b).toList = (rotate img (a + b)).toList
      ∧ (rotate (rotate (rotate (rotate img 1#2) 1#2) 1#2) 1#2).toList = img.toList

/-- 40_preprocess R124, R109: each mirror undoes itself, INVERT undoes itself, and both mirrors are the half turn. -/
def Obligations.MirrorAndInvertAreInvolutive : Prop :=
  ∀ (img : Image) (h v : Bool), 1 ≤ img.W → 1 ≤ img.H →
    ((mirror (mirror img h v) h v).W = img.W ∧ (mirror (mirror img h v) h v).H = img.H
        ∧ (mirror (mirror img h v) h v).toList = img.toList)
      ∧ ((mirror img true true).W = (rotate img 2#2).W ∧ (mirror img true true).H = (rotate img 2#2).H
        ∧ (mirror img true true).toList = (rotate img 2#2).toList)
      ∧ ((invert (invert img)).W = img.W ∧ (invert (invert img)).H = img.H
        ∧ (invert (invert img)).toList = img.toList)

/-- 40_preprocess R112, R124: contrast 0 is the identity, -255 gives 128, 128 is a fixed point; a brightness offset
never moves a channel value, nor a channel's mean over an image, against its sign (the dimensions stay, so the means
compare as the sums). -/
def Obligations.TonalLaws : Prop :=
  (∀ v : Byte, cval 0 v = v ∧ cval (-255) v = 128#8)
    ∧ (∀ c : Int, -255 ≤ c → c ≤ 255 → cval c 128#8 = 128#8)
    ∧ (∀ (d : Int) (v : Byte),
      (0 < d → v.toNat ≤ (brightChannel d v).toNat) ∧ (d < 0 → (brightChannel d v).toNat ≤ v.toNat))
    ∧ ∀ (img : Image) (d : Int) (channel : Pixel → Byte), channel ∈ [Pixel.r, Pixel.g, Pixel.b] →
      (bright img d).W = img.W ∧ (bright img d).H = img.H
        ∧ (0 < d → img.channelTotal channel ≤ (bright img d).channelTotal channel)
        ∧ (d < 0 → (bright img d).channelTotal channel ≤ img.channelTotal channel)

/-! ### ENCODE and CONVERT -/

/-- 44_pipeline R218, R220: ENCODE of a readable frame in a supported format, where the scan order is defined: the output
is header, palette and payload, and the result registers describe it. -/
def Obligations.EncodeCommand : Prop :=
  ∀ (s : State) (f : Format) (mode : ScanMode) (hdr pal pay : List Byte), s.params.wellFormed = true →
    s.FrameReadable → formatOfCode s.cfg.format.fmt = some f →
    (isPacked f s.cfg.format.l12 = true → s.cfg.scan.mode ≠ .horizontal →
      s.params.subbyteScan = .passthrough ∧ mode = .horizontal) →
    (isPacked f s.cfg.format.l12 = false ∨ s.cfg.scan.mode = .horizontal → mode = s.cfg.scan.mode) →
    hdr = (if s.cfg.hdrCtrl.hdrEn then header f s.cfg s.frameW.toNat s.frameH.toNat else []) →
    pal = (if f = .color256 ∧ s.cfg.hdrCtrl.palEn = true then paletteTable s.cfg s.paletteEntry else []) →
    pay = pack f s.cfg (scanSeq mode s.frameImage) →
    ∃ t : State, exec .encode s = .next t ∧ t.Succeeded ∧ t.status.outValid = true
      ∧ (∀ k, k < (hdr ++ pal ++ pay).length → t.outputByte k = (hdr ++ pal ++ pay).getD k 0#8)
      ∧ t.result.outLen.toNat = (hdr ++ pal ++ pay).length ∧ t.result.payLen.toNat = pay.length
      ∧ t.result.resW = s.frameW ∧ t.result.resH = s.frameH
      ∧ t.result.resInfo = ⟨s.cfg.format.fmt, s.cfg.scan.mode, s.cfg.hdrCtrl.hdrEn,
          decide (f = .color256) && s.cfg.hdrCtrl.palEn⟩

/-- 44_pipeline R219, R220: CONVERT encodes the preprocessed image, whose dimensions the result registers hold. -/
def Obligations.ConvertCommand : Prop :=
  ∀ (s : State) (f : Format) (mode : ScanMode) (img : Image) (hdr pal pay : List Byte),
    s.params.wellFormed = true → s.FrameReadable → formatOfCode s.cfg.format.fmt = some f →
    preprocess s.cfg s.frameImage = .ok img →
    (isPacked f s.cfg.format.l12 = true → s.cfg.scan.mode ≠ .horizontal →
      s.params.subbyteScan = .passthrough ∧ mode = .horizontal) →
    (isPacked f s.cfg.format.l12 = false ∨ s.cfg.scan.mode = .horizontal → mode = s.cfg.scan.mode) →
    hdr = (if s.cfg.hdrCtrl.hdrEn then header f s.cfg img.W img.H else []) →
    pal = (if f = .color256 ∧ s.cfg.hdrCtrl.palEn = true then paletteTable s.cfg s.paletteEntry else []) →
    pay = pack f s.cfg (scanSeq mode img) →
    ∃ t : State, exec .convert s = .next t ∧ t.Succeeded ∧ t.status.outValid = true
      ∧ (∀ k, k < (hdr ++ pal ++ pay).length → t.outputByte k = (hdr ++ pal ++ pay).getD k 0#8)
      ∧ t.result.outLen.toNat = (hdr ++ pal ++ pay).length ∧ t.result.payLen.toNat = pay.length
      ∧ t.result.resW.toNat = img.W ∧ t.result.resH.toNat = img.H
      ∧ t.result.resInfo = ⟨s.cfg.format.fmt, s.cfg.scan.mode, s.cfg.hdrCtrl.hdrEn,
          decide (f = .color256) && s.cfg.hdrCtrl.palEn⟩

/-- 44_pipeline R219: with PRE_CTRL = 0, CONVERT equals ENCODE, in every state. -/
def Obligations.ConvertWithoutRequestsIsEncode : Prop :=
  ∀ s : State, s.cfg.preCtrl.toWord = 0#32 → exec .convert s = exec .encode s

/-- 60_exceptions R234: the error ENCODE and CONVERT raise when several conditions hold: UnsupportedFormat, then
InvalidDimension of the frame, then of the resize, then UnimplementedScan. -/
def Obligations.EncodeErrorsFollowThePriority : Prop :=
  ∀ s : State,
    (10 ≤ s.cfg.format.fmt.toNat →
      exec .encode s = .next (s.afterError 2#4) ∧ exec .convert s = .next (s.afterError 2#4))
    ∧ (s.cfg.format.fmt.toNat ≤ 9 →
      (s.frameW = 0#16 ∨ s.frameH = 0#16 ∨ s.params.maxPixels < s.frameW.toNat * s.frameH.toNat) →
      exec .encode s = .next (s.afterError 3#4) ∧ exec .convert s = .next (s.afterError 3#4))
    ∧ (s.cfg.format.fmt.toNat ≤ 9 → s.FrameReadable → s.cfg.preCtrl.resizeEn = true →
      resize s.frameImage s.cfg.maxW.toNat s.cfg.maxH.toNat = .error .invalidDimension →
      exec .convert s = .next (s.afterError 3#4))
    ∧ ∀ f : Format, formatOfCode s.cfg.format.fmt = some f → isPacked f s.cfg.format.l12 = true →
      s.cfg.scan.mode ≠ .horizontal → s.params.subbyteScan = .fault → s.FrameReadable →
      exec .encode s = .next (s.afterError 4#4)
      ∧ ∀ img : Image, preprocess s.cfg s.frameImage = .ok img → exec .convert s = .next (s.afterError 4#4)

/-- 44_pipeline R222, 10_state R41: ENCODE and CONVERT never write the frame, the palette or a configuration register,
and no output byte past OUT_LEN. -/
def Obligations.EncodeConvertFrame : Prop :=
  ∀ (i : Instr) (s t : State), (i = .encode ∨ i = .convert) → s.params.wellFormed = true → exec i s = .next t →
    t.frame = s.frame ∧ t.frameW = s.frameW ∧ t.frameH = s.frameH ∧ t.palette = s.palette ∧ t.cfg = s.cfg
      ∧ t.pending = none ∧ t.status.cmdOvr = s.status.cmdOvr ∧ t.status.wrBusy = s.status.wrBusy
      ∧ SameEnvironment s t ∧ (∀ k, t.result.outLen.toNat ≤ k → t.outputByte k = s.outputByte k)
      ∧ (t.status.err = true → t.output = s.output ∧ t.result = s.result ∧ t.status.outValid = s.status.outValid)

/-! ### Payload, scan order, byte and bit order -/

/-- 41_quantize_pack R163: the payload's length for every format, layout, scan mode and image; at most 4 bytes a
pixel. -/
def Obligations.PayloadLengths : Prop :=
  ∀ (p : Params) (f : Format) (c : ConfigRegs) (img : Image) (pay : List Byte) (n : Nat), n = img.W * img.H →
    payload p f c img = .ok pay →
    (f = .mono → pay.length = (n * 1 + 7) / 8) ∧ (f = .gray4 → pay.length = (n * 2 + 7) / 8)
      ∧ (f = .gray16 → pay.length = (n * 4 + 7) / 8)
      ∧ (f = .color4096 → c.format.l12 = false → pay.length = (n * 12 + 7) / 8)
      ∧ (f = .grayscale ∨ f = .color256 → pay.length = n)
      ∧ (f = .color16bit ∨ (f = .color4096 ∧ c.format.l12 = true) → pay.length = n * 2)
      ∧ (f = .color18bit ∨ f = .color24bit → pay.length = n * 3) ∧ (f = .color32bit → pay.length = n * 4)
      ∧ pay.length ≤ 4 * n

/-- 42_scan_order R178: the `lsb` payload of a byte-aligned format is `applyByteOrder` of the `msb` payload with the
pixel's group size, and byte order changes no packed payload. -/
def Obligations.LsbReversesEachPixelGroup : Prop :=
  ∀ (f : Format) (c msb lsb : ConfigRegs) (seq : List Pixel),
    msb = { c with scan := { c.scan with byteOrder := .msb } } →
    lsb = { c with scan := { c.scan with byteOrder := .lsb } } →
    (∀ n, groupBytes f c.format.l12 = some n → pack f lsb seq = applyByteOrder (pack f msb seq) .lsb n)
      ∧ (isPacked f c.format.l12 = true → pack f lsb seq = pack f msb seq)

/-- 42_scan_order R177, R181: `lsb` reverses every whole group, leaves a partial tail, and undoes itself; `msb` leaves
the data unchanged. -/
def Obligations.ApplyByteOrderLaws : Prop :=
  ∀ (d : List Byte) (n : Nat), 1 ≤ n →
    applyByteOrder d .msb n = d
      ∧ applyByteOrder (applyByteOrder d .lsb n) .lsb n = d
      ∧ (applyByteOrder d .lsb n).length = d.length
      ∧ (∀ g j, g * n + n ≤ d.length → j < n → (applyByteOrder d .lsb n)[g * n + j]? = d[g * n + (n - 1 - j)]?)
      ∧ ∀ i, d.length / n * n ≤ i → (applyByteOrder d .lsb n)[i]? = d[i]?

/-- 42_scan_order R171 to R174: the four orders, position by position; horizontal is raster order, and R180's sequence
takes the pixels in them. R175: every order is a bijection from the positions onto the image's coordinates, and on a
single row or column modes 0, 1 and 3 agree. -/
def Obligations.ScanOrdersAreBijections : Prop :=
  (∀ (W H k : Nat), k < W * H →
      scanOrder .horizontal W H k = (k % W, k / W) ∧ scanOrder .vertical W H k = (k / H, k % H)
        ∧ scanOrder .horizontalReverse W H k = (k % W, H - 1 - k / W)
        ∧ scanOrder .dataVertical W H k = scanOrder .horizontal W H k)
    ∧ (∀ (mode : ScanMode) (img : Image), scanSeq .horizontal img = img.toList
      ∧ (scanSeq mode img).length = img.W * img.H
      ∧ ∀ k, k < img.W * img.H → (scanSeq .horizontal img)[k]? = some (img.px k)
        ∧ (scanSeq mode img)[k]?
          = some (img.px ((scanOrder mode img.W img.H k).2 * img.W + (scanOrder mode img.W img.H k).1)))
    ∧ ∀ (mode : ScanMode) (W H : Nat),
      (∀ k, k < W * H → (scanOrder mode W H k).1 < W ∧ (scanOrder mode W H k).2 < H)
        ∧ (∀ j k, j < W * H → k < W * H → scanOrder mode W H j = scanOrder mode W H k → j = k)
        ∧ (∀ x y, x < W → y < H → ∃ k, k < W * H ∧ scanOrder mode W H k = (x, y))
        ∧ ((W = 1 ∨ H = 1) → mode ≠ .horizontalReverse → ∀ k, k < W * H →
            scanOrder mode W H k = scanOrder .horizontal W H k)

/-- 42_scan_order R170, R171 to R174, 44_pipeline R221: for byte-aligned formats, ordering the pixels before packing is
the document's reordering of whole pixel groups of the packed horizontal sequence. -/
def Obligations.ScanMovesWholePixelGroups : Prop :=
  ∀ (f : Format) (c : ConfigRegs) (img : Image) (n : Nat), groupBytes f c.format.l12 = some n →
    ∀ x y j, x < img.W → y < img.H → j < n →
      (pack f c (scanSeq .vertical img))[(x * img.H + y) * n + j]?
          = (pack f c (scanSeq .horizontal img))[(y * img.W + x) * n + j]?
        ∧ (pack f c (scanSeq .horizontalReverse img))[((img.H - 1 - y) * img.W + x) * n + j]?
          = (pack f c (scanSeq .horizontal img))[(y * img.W + x) * n + j]?
        ∧ pack f c (scanSeq .dataVertical img) = pack f c (scanSeq .horizontal img)

/-- 42_scan_order R181: the vertical sequence of an image is the horizontal sequence of its transpose. -/
def Obligations.VerticalScanIsTranspose : Prop :=
  ∀ img : Image, scanSeq .vertical img
    = scanSeq .horizontal (Image.tabulate img.H img.W (fun x y => img.pixel y x))

/-- 41_quantize_pack R159: each sub-option is ignored by the formats that do not own it; no payload byte changes. -/
def Obligations.SubOptionsOfOtherFormatsIgnored : Prop :=
  ∀ (p : Params) (f : Format) (c : ConfigRegs) (img : Image) (o : RgbOrder) (b : Bool),
    (f ≠ .color24bit → f ≠ .color32bit →
      payload p f { c with format := { c.format with rgbOrder := o } } img = payload p f c img)
    ∧ (f ≠ .color16bit → payload p f { c with format := { c.format with v16 := b } } img = payload p f c img)
    ∧ (f ≠ .color18bit → payload p f { c with format := { c.format with p18 := b } } img = payload p f c img)
    ∧ (f ≠ .color4096 → payload p f { c with format := { c.format with l12 := b } } img = payload p f c img)

/-- 41_quantize_pack R160: only color32bit reads alpha: two images that differ in alpha alone have the same payload in
every other format. -/
def Obligations.AlphaReachesOnlyColor32 : Prop :=
  ∀ (p : Params) (f : Format) (c : ConfigRegs) (img img' : Image), img'.W = img.W → img'.H = img.H →
    (∀ i, i < img.W * img.H → (img'.px i).r = (img.px i).r ∧ (img'.px i).g = (img.px i).g
      ∧ (img'.px i).b = (img.px i).b) →
    f ≠ .color32bit → payload p f c img' = payload p f c img

/-- 41_quantize_pack R154, 42_scan_order R179: each code sits in its own slot of its byte, MSB-first or LSB-first, and
slots past the last pixel are 0. -/
def Obligations.SubBytePackingSlots : Prop :=
  ∀ (codes : List Nat) (b : Nat) (bo : BitOrder), (b = 1 ∨ b = 2 ∨ b = 4) → (∀ c ∈ codes, c < 2 ^ b) →
    (packSub codes b bo).length = (codes.length * b + 7) / 8
      ∧ ∀ k j, k < (packSub codes b bo).length → j < 8 / b →
        ((packSub codes b bo).getD k 0#8).toNat / 2 ^ (if bo = .msbFirst then 8 - b * (j + 1) else b * j) % 2 ^ b
          = codes.getD (k * (8 / b) + j) 0

/-- 41_quantize_pack R148, R155: two 12-bit codes in three bytes with the first in the upper half, a last unpaired code
in two bytes. -/
def Obligations.TwelveBitPacking : Prop :=
  ∀ codes : List (BitVec 12),
    (∀ j c0 c1, codes[2 * j]? = some c0 → codes[2 * j + 1]? = some c1 →
      ((pack12 codes).getD (3 * j) 0#8).toNat = c0.toNat / 16
        ∧ ((pack12 codes).getD (3 * j + 1) 0#8).toNat = c0.toNat % 16 * 16 + c1.toNat / 256
        ∧ ((pack12 codes).getD (3 * j + 2) 0#8).toNat = c1.toNat % 256)
    ∧ ∀ j c, codes.length = 2 * j + 1 → codes[2 * j]? = some c →
      (pack12 codes).length = 3 * j + 2 ∧ ((pack12 codes).getD (3 * j) 0#8).toNat = c.toNat / 16
        ∧ ((pack12 codes).getD (3 * j + 1) 0#8).toNat = c.toNat % 16 * 16

/-- 41_quantize_pack R157 with R140 to R153, R155, R156, R162: which code or group each format packs, with which
sub-options and orders, as arithmetic on the channels: the packed formats hand their codes to `packSub` (R154, in
SubBytePackingSlots) or `pack12` (R148, in TwelveBitPacking), the byte-aligned ones put one group a pixel, reversed for
`lsb` (42_scan_order R178). -/
def Obligations.QuantizerValues : Prop :=
  ∀ (c : ConfigRegs) (seq : List Pixel) (grey : Pixel → Nat) (ord : List Nat → List Nat),
    (∀ p, grey p = (p.r.toNat + p.g.toNat + p.b.toNat) / 3) →
    (∀ l, ord l = if c.scan.byteOrder = .lsb then l.reverse else l) →
    pack .mono c seq = packSub (seq.map (fun p => if grey p ≥ 128 then 1 else 0)) 1 c.scan.bitOrder
      ∧ pack .gray4 c seq = packSub (seq.map (fun p => grey p / 64)) 2 c.scan.bitOrder
      ∧ pack .gray16 c seq = packSub (seq.map (fun p => grey p / 16)) 4 c.scan.bitOrder
      ∧ (c.format.l12 = false → pack .color4096 c seq = pack12 (seq.map (fun p =>
          BitVec.ofNat 12 (p.r.toNat / 16 * 256 + p.g.toNat / 16 * 16 + p.b.toNat / 16))))
      ∧ (∀ f : Format, f = .mono ∨ f = .gray4 ∨ f = .gray16 ∨ (f = .color4096 ∧ c.format.l12 = false)
          ∨ pack f c seq = seq.flatMap (fun p => pack f c [p]))
      ∧ (∀ (p : Pixel) (r g b : Nat), r = p.r.toNat → g = p.g.toNat → b = p.b.toNat →
        (pack .grayscale c [p]).map BitVec.toNat = [(299 * r + 587 * g + 114 * b + 500) / 1000]
          ∧ (pack .color256 c [p]).map BitVec.toNat = [r / 32 * 32 + g / 32 * 4 + b / 64]
          ∧ (c.format.l12 = true →
              (pack .color4096 c [p]).map BitVec.toNat = ord [r / 16, g / 16 * 16 + b / 16])
          ∧ (c.format.v16 = false → (pack .color16bit c [p]).map BitVec.toNat
              = ord [(r / 8 * 2048 + g / 4 * 32 + b / 8) / 256, (r / 8 * 2048 + g / 4 * 32 + b / 8) % 256])
          ∧ (c.format.v16 = true → (pack .color16bit c [p]).map BitVec.toNat
              = ord [(r / 8 * 1024 + g / 8 * 32 + b / 8) / 256, (r / 8 * 1024 + g / 8 * 32 + b / 8) % 256])
          ∧ (c.format.p18 = false → (pack .color18bit c [p]).map BitVec.toNat = ord [r / 4, g / 4, b / 4])
          ∧ (c.format.p18 = true → (pack .color18bit c [p]).map BitVec.toNat = ord [r / 4 * 4, g / 4 * 4, b / 4 * 4])
          ∧ ∀ o x y z, (o, x, y, z) ∈ [(RgbOrder.rgb, r, g, b), (.rbg, r, b, g), (.grb, g, r, b), (.gbr, g, b, r),
              (.brg, b, r, g), (.bgr, b, g, r)] → c.format.rgbOrder = o →
            (pack .color24bit c [p]).map BitVec.toNat = ord [x, y, z]
              ∧ (pack .color32bit c [p]).map BitVec.toNat = ord [x, y, z, p.a.toNat])
      ∧ ∀ l12 : Bool,
        [Format.mono, .gray4, .gray16, .grayscale, .color256, .color4096, .color16bit, .color18bit, .color24bit,
            .color32bit].map (fun f => groupBytes f l12)
          = [none, none, none, some 1, some 1, if l12 then some 2 else none, some 2, some 3, some 3, some 4]
        ∧ ∀ f : Format, isPacked f l12 = true ↔ groupBytes f l12 = none

/-! ### Header and palette -/

/-- 43_header_framer R191 to R197: the scan byte's bits, the bits-per-pixel byte of each of FMT 0 to 9, HEADGRAY's 6
bytes for FMT 0 to 3 (41_quantize_pack R140) and HEADCOLOR's 8 bytes for FMT 4 to 9. -/
def Obligations.HeaderLayout : Prop :=
  ∀ (k : BitVec 4) (f : Format) (c : ConfigRegs) (W H bpp : Nat), W < 65536 → H < 65536 → formatOfCode k = some f →
    [1, 2, 4, 8, 8, 12, 16, 18, 24, 32][k.toNat]? = some bpp →
    (scanByte c).toNat
        = (if c.scan.mode = .horizontal then 0 else if c.scan.mode = .vertical then 1
            else if c.scan.mode = .horizontalReverse then 2 else 3)
          + (if c.scan.byteOrder = .lsb then 16 else 0) + (if c.scan.bitOrder = .lsbFirst then 32 else 0)
          + (if c.preCtrl.mirrorH then 64 else 0) + (if c.preCtrl.mirrorV then 128 else 0)
      ∧ (k.toNat ≤ 3 → (header f c W H).map BitVec.toNat
          = [(scanByte c).toNat, bpp, W % 256, W / 256, H % 256, H / 256])
      ∧ (4 ≤ k.toNat → (header f c W H).map BitVec.toNat
          = [(scanByte c).toNat, bpp, W % 256, W / 256, H % 256, H / 256, (variantFlag f c.format).toNat,
              if f = .color24bit ∨ f = .color32bit then
                [0x1B, 0x1E, 0x27, 0x2D, 0x36, 0x39].getD (rgbOrderCode c.format.rgbOrder).toNat 0
              else 0x1B])
      ∧ variantFlag .color16bit c.format = (if c.format.v16 then 0#8 else 1#8)
      ∧ variantFlag .color4096 c.format = (if c.format.l12 then 1#8 else 0#8)
      ∧ variantFlag .color18bit c.format = (if c.format.p18 then 1#8 else 0#8)
      ∧ variantFlag .color256 c.format = 0#8 ∧ variantFlag .color24bit c.format = 0#8
      ∧ variantFlag .color32bit c.format = 0#8

/-- 43_header_framer R198 to R201: a little-endian count, then the triples of the chosen source: RGB332 expanded, linear
grey, or the palette RAM. -/
def Obligations.PaletteSerialisation : Prop :=
  ∀ (c : ConfigRegs) (s : State) (n : Nat),
    n = (if c.hdrCtrl.palSrc = .caller then c.palCount.toNat else 256) →
    (paletteTable c s.paletteEntry).length = 2 + 3 * n
      ∧ ((paletteTable c s.paletteEntry).getD 0 0#8).toNat = n % 256
      ∧ ((paletteTable c s.paletteEntry).getD 1 0#8).toNat = n / 256
      ∧ ∀ e j, e < n → j < 3 →
        (c.hdrCtrl.palSrc = .caller → (paletteTable c s.paletteEntry).getD (2 + 3 * e + j) 0#8 = s.paletteByte (3 * e + j))
        ∧ (c.hdrCtrl.palSrc = .grayscale → ((paletteTable c s.paletteEntry).getD (2 + 3 * e + j) 0#8).toNat = e)
        ∧ (c.hdrCtrl.palSrc = .rgb332 → ((paletteTable c s.paletteEntry).getD (2 + 3 * e + j) 0#8).toNat
            = [(2 * (e / 32 * 255) + 7) / 14, (2 * (e / 4 % 8 * 255) + 7) / 14, 85 * (e % 4)].getD j 0)

/-- 43_header_framer R203: the framed output of an image within MAX_PIXELS fits the output RAM. -/
def Obligations.FramedOutputFits : Prop :=
  ∀ (p : Params) (f : Format) (c : ConfigRegs) (s : State) (img : Image) (e : Encoded), c.palCount.toNat ≤ 256 →
    img.W * img.H ≤ p.maxPixels → frameOut p f c s.paletteEntry img = .ok e →
    (e.hdr.length = 0 ∨ e.hdr.length = 6 ∨ e.hdr.length = 8) ∧ e.pal.length ≤ 770
      ∧ e.pay.length ≤ 4 * p.maxPixels ∧ e.bytes.length = e.hdr.length + e.pal.length + e.pay.length
      ∧ e.bytes.length ≤ outCap p

/-! ### The host port -/

/-- 20_memory R71, R73: a host read returns the word of its offset and changes nothing of the block; a host write does
what its offset's rule says. The engine is not due: it is idle, or host events come before its completion (log entries 3 to 5). -/
def Obligations.HostAccessesArePerformed : Prop :=
  ∀ (s : State) (rest : List HostEvent) (addr off : Nat) (w : Word), s.inReset = false →
    (s.pending = none ∨ s.delayLeft ≠ 0) → accessOffset s.params addr 4 = .ok off →
    (s.hostQueue = .read addr 4 :: rest →
      ∃ t : State, step s = .next t ∧ t.readLog = s.readLog ++ [s.readWord (Config.freeWord s.draws) off]
        ∧ t = { s with hostQueue := rest, readLog := t.readLog, delayLeft := t.delayLeft, draws := t.draws })
    ∧ (s.hostQueue = .write addr 4 w :: rest → step s = .next ((s.popEvent rest).writeWord off w))

/-- 20_memory R62: an access of another width, or at an offset that is no multiple of 4, gets a bus error. That this is
so while the reset input is asserted too is the model's choice (log entry 7), and so is that a busy block performs host
events while `delayLeft` is not 0 (log entry 4). -/
def Obligations.MisalignedOrNarrowAccessIsBusError : Prop :=
  ∀ (s : State) (rest : List HostEvent) (addr width : Nat) (w : Word), (s.inReset = true ∨ s.pending = none ∨ s.delayLeft ≠ 0) →
    s.params.base ≤ addr → addr < s.params.base + 16777216 →
    (s.hostQueue = .read addr width :: rest ∨ s.hostQueue = .write addr width w :: rest) →
    ((width ≠ 4 ∨ (addr - s.params.base) % 4 ≠ 0) → step s = .fault (.busError addr width))
      ∧ (width = 4 → (addr - s.params.base) % 4 = 0 → ∃ t : State, step s = .next t)

/-- 10_state R24: STATUS as it reads, and as a write of ones clears it, busy or not; nothing else changes. -/
def Obligations.StatusRegisterBits : Prop :=
  ∀ (s : State) (u w v : Word), v = s.readWord u 0x08 →
    s.writeWord 0x08 w = { s with status := {
        done := s.status.done && !w.getLsbD 1
        err := s.status.err && !w.getLsbD 2
        errCode := if w.getLsbD 2 then 0#4 else s.status.errCode
        cmdOvr := s.status.cmdOvr && !w.getLsbD 8
        wrBusy := s.status.wrBusy && !w.getLsbD 9
        outValid := s.status.outValid } }
      ∧ v.getLsbD 0 = s.pending.isSome ∧ v.getLsbD 1 = s.status.done ∧ v.getLsbD 2 = s.status.err
      ∧ v.extractLsb' 4 4 = s.status.errCode ∧ v.getLsbD 8 = s.status.cmdOvr ∧ v.getLsbD 9 = s.status.wrBusy
      ∧ v.getLsbD 16 = s.status.outValid
      ∧ ∀ i, i = 3 ∨ (10 ≤ i ∧ i ≤ 15) ∨ 17 ≤ i → v.getLsbD i = false

/-- 10_state R35 to R38, R22, R23: what a read of a result register, ID and CMD returns, busy or not, with RES_INFO's
layout; a write to a result register or ID is ignored (R44). R25 to R33, R44, 30_encoding R84 to R87: which field each
bit of an idle write of `w` to an RW or WARL register goes to, which named value each number stands for, and what the
register then reads; such a write changes no other register, no RAM and nothing of the environment. -/
def Obligations.ConfigurationRegistersReadBack : Prop :=
  ∀ (s : State) (u w : Word),
    ((s.readWord u 0x38).toNat = s.result.resW.toNat ∧ (s.readWord u 0x3C).toNat = s.result.resH.toNat
      ∧ s.readWord u 0x40 = s.result.payLen ∧ s.readWord u 0x44 = s.result.outLen
      ∧ (s.readWord u 0x48).toNat = s.result.resInfo.fmt.toNat
          + 256 * (if s.result.resInfo.mode = .horizontal then 0 else if s.result.resInfo.mode = .vertical then 1
              else if s.result.resInfo.mode = .horizontalReverse then 2 else 3)
          + (if s.result.resInfo.hasHeader then 2 ^ 16 else 0) + (if s.result.resInfo.hasPalette then 2 ^ 17 else 0)
      ∧ (∀ off, 0x38 ≤ off → off ≤ 0x48 → s.writeWord off w = s)
      ∧ s.readWord u 0x00 = 0x49324C01#32 ∧ s.writeWord 0x00 w = s ∧ s.readWord u 0x04 = 0#32)
    ∧ (s.pending = none →
      ((s.writeWord 0x0C w).frameW = w.extractLsb' 0 16 ∧ (s.writeWord 0x10 w).frameH = w.extractLsb' 0 16
        ∧ (s.writeWord 0x14 w).cfg.format = ⟨w.extractLsb' 0 4, (s.writeWord 0x14 w).cfg.format.rgbOrder,
            w.getLsbD 8, w.getLsbD 9, w.getLsbD 10⟩
        ∧ formatOfCode (w.extractLsb' 0 4) = [Format.mono, .gray4, .gray16, .grayscale, .color256, .color4096,
            .color16bit, .color18bit, .color24bit, .color32bit][(w.extractLsb' 0 4).toNat]?
        ∧ (s.writeWord 0x14 w).cfg.format.rgbOrder = [RgbOrder.rgb, .rbg, .grb, .gbr, .brg, .bgr].getD
            (w.extractLsb' 4 3).toNat s.cfg.format.rgbOrder
        ∧ some (s.writeWord 0x18 w).cfg.scan.mode
            = [ScanMode.horizontal, .vertical, .horizontalReverse, .dataVertical][(w.extractLsb' 0 2).toNat]?
        ∧ (s.writeWord 0x18 w).cfg.scan.byteOrder = (if w.getLsbD 4 then .lsb else .msb)
        ∧ (s.writeWord 0x18 w).cfg.scan.bitOrder = (if w.getLsbD 5 then .lsbFirst else .msbFirst)
        ∧ (s.writeWord 0x1C w).cfg.preCtrl = ⟨w.getLsbD 0, w.extractLsb' 1 2, w.getLsbD 3, w.getLsbD 4, w.getLsbD 5,
            w.getLsbD 6, w.getLsbD 7, [Dither.off, .errorDiffusion, .ordered].getD (w.extractLsb' 8 2).toNat
              s.cfg.preCtrl.dither⟩
        ∧ (s.writeWord 0x20 w).cfg.maxW = w.extractLsb' 0 16 ∧ (s.writeWord 0x24 w).cfg.maxH = w.extractLsb' 0 16
        ∧ (s.writeWord 0x28 w).cfg.brightness.toInt = min 255 (max (-255) w.toInt)
        ∧ (s.writeWord 0x2C w).cfg.contrast.toInt = min 255 (max (-255) w.toInt)
        ∧ (s.writeWord 0x30 w).cfg.hdrCtrl = ⟨w.getLsbD 0, w.getLsbD 1,
            [PalSource.rgb332, .grayscale, .caller].getD (w.extractLsb' 2 2).toNat s.cfg.hdrCtrl.palSrc⟩
        ∧ (s.writeWord 0x34 w).cfg.palCount.toNat = min w.toNat 256)
      ∧ ((s.writeWord 0x0C w).readWord u 0x0C = w &&& 0xFFFF#32 ∧ (s.writeWord 0x10 w).readWord u 0x10 = w &&& 0xFFFF#32
        ∧ (s.writeWord 0x14 w).readWord u 0x14 = (w &&& 0x70F#32)
            ||| ((if w.extractLsb' 4 3 = 6#3 ∨ w.extractLsb' 4 3 = 7#3 then s.readWord u 0x14 else w) &&& 0x70#32)
        ∧ (s.writeWord 0x18 w).readWord u 0x18 = w &&& 0x33#32
        ∧ (s.writeWord 0x1C w).readWord u 0x1C
            = (w &&& 0xFF#32) ||| ((if w.extractLsb' 8 2 = 3#2 then s.readWord u 0x1C else w) &&& 0x300#32)
        ∧ (s.writeWord 0x20 w).readWord u 0x20 = w &&& 0xFFFF#32 ∧ (s.writeWord 0x24 w).readWord u 0x24 = w &&& 0xFFFF#32
        ∧ ((s.writeWord 0x28 w).readWord u 0x28).toInt = min 255 (max (-255) w.toInt)
        ∧ ((s.writeWord 0x2C w).readWord u 0x2C).toInt = min 255 (max (-255) w.toInt)
        ∧ (s.writeWord 0x30 w).readWord u 0x30
            = (w &&& 0x3#32) ||| ((if w.extractLsb' 2 2 = 3#2 then s.readWord u 0x30 else w) &&& 0xC#32)
        ∧ ((s.writeWord 0x34 w).readWord u 0x34).toNat = min w.toNat 256)
      ∧ ∀ r : RegName, isConfigReg r = true →
        (∀ r' : RegName, r' ≠ r → (s.writeWord (regOffset r) w).readReg r' = s.readReg r')
        ∧ (s.writeWord (regOffset r) w).frame = s.frame ∧ (s.writeWord (regOffset r) w).palette = s.palette
        ∧ (s.writeWord (regOffset r) w).output = s.output ∧ (s.writeWord (regOffset r) w).pending = s.pending
        ∧ SameEnvironment s (s.writeWord (regOffset r) w))

/-- 70_reset R257, R258, 92 D44: while busy, a CMD write is dropped and sets CMD_OVR; a configuration, frame or palette
write is dropped and sets WR_BUSY; other offsets but STATUS ignore writes and set no bit (log entry 10). -/
def Obligations.WritesWhileBusyAreDropped : Prop :=
  ∀ (s : State) (off : Nat) (w : Word), s.params.wellFormed = true → s.pending ≠ none → off % 4 = 0 → off < 16777216 →
    (off = 0x04 → s.writeWord off w = { s with status := { s.status with cmdOvr := true } })
      ∧ ((0x0C ≤ off ∧ off ≤ 0x34) ∨ (0x400 ≤ off ∧ off < 0x700)
          ∨ (0x100000 ≤ off ∧ off < 0x100000 + 4 * s.params.maxPixels) →
        s.writeWord off w = { s with status := { s.status with wrBusy := true } })
      ∧ (off = 0x00 ∨ (0x38 ≤ off ∧ off < 0x400) ∨ (0x700 ≤ off ∧ off < 0x100000)
          ∨ 0x100000 + 4 * s.params.maxPixels ≤ off →
        s.writeWord off w = s)

/-- 20_memory R64: the frame window of an idle block: pixel `i` in its four lanes, a write to it, and offsets past
MAX_PIXELS. -/
def Obligations.FrameWindow : Prop :=
  ∀ (s : State) (u w : Word) (i : Nat), s.params.wellFormed = true → s.pending = none →
    (i < s.params.maxPixels →
      ((s.readWord u (0x100000 + 4 * i)).extractLsb' 0 8 = (s.framePixel i).r
        ∧ (s.readWord u (0x100000 + 4 * i)).extractLsb' 8 8 = (s.framePixel i).g
        ∧ (s.readWord u (0x100000 + 4 * i)).extractLsb' 16 8 = (s.framePixel i).b
        ∧ (s.readWord u (0x100000 + 4 * i)).extractLsb' 24 8 = (s.framePixel i).a)
      ∧ (s.writeWord (0x100000 + 4 * i) w).framePixel i
          = ⟨w.extractLsb' 0 8, w.extractLsb' 8 8, w.extractLsb' 16 8, w.extractLsb' 24 8⟩
      ∧ (∀ k, k / 4 ≠ i → (s.writeWord (0x100000 + 4 * i) w).frameByte k = s.frameByte k)
      ∧ { s.writeWord (0x100000 + 4 * i) w with frame := s.frame } = s)
    ∧ (s.params.maxPixels ≤ i → 0x100000 + 4 * i < 0x500000 →
      s.readWord u (0x100000 + 4 * i) = 0#32 ∧ s.writeWord (0x100000 + 4 * i) w = s)

/-- 20_memory R66: the palette window: 768 bytes, four to a word, entry `e` at byte 3e; a read is the same busy or idle
(R69); an idle write sets the word's four bytes. -/
def Obligations.PaletteWindow : Prop :=
  ∀ (s : State) (u w : Word) (m : Nat), m < 192 →
    (∀ j, j < 4 → (s.readWord u (0x400 + 4 * m)).extractLsb' (8 * j) 8 = s.paletteByte (4 * m + j))
      ∧ (∀ e, s.paletteEntry e = [s.paletteByte (3 * e), s.paletteByte (3 * e + 1), s.paletteByte (3 * e + 2)])
      ∧ (s.pending = none →
        (∀ j, j < 4 → (s.writeWord (0x400 + 4 * m) w).paletteByte (4 * m + j) = w.extractLsb' (8 * j) 8)
        ∧ (∀ k, k / 4 ≠ m → (s.writeWord (0x400 + 4 * m) w).paletteByte k = s.paletteByte k)
        ∧ { s.writeWord (0x400 + 4 * m) w with palette := s.palette } = s)

/-- 20_memory R65: the output window of an idle block: byte `k` of the output sequence in lane `k mod 4`, 0 from OUT_CAP
on, nothing claimed between; writes are ignored, busy or not. -/
def Obligations.OutputWindow : Prop :=
  ∀ (s : State) (u w : Word) (m j : Nat), 0x800000 + 4 * m ≤ 0xCFFFFC → j < 4 →
    s.writeWord (0x800000 + 4 * m) w = s
      ∧ (s.pending = none →
        (4 * m + j < s.result.outLen.toNat → 4 * m + j < outCap s.params →
          (s.readWord u (0x800000 + 4 * m)).extractLsb' (8 * j) 8 = s.outputByte (4 * m + j))
        ∧ (outCap s.params ≤ 4 * m + j → (s.readWord u (0x800000 + 4 * m)).extractLsb' (8 * j) 8 = 0#8))

/-- 20_memory R67, 10_state R34: reserved offsets read 0 and ignore writes, busy or not. -/
def Obligations.ReservedOffsetsReadZeroIgnoreWrites : Prop :=
  ∀ (s : State) (u w : Word) (off : Nat), off % 4 = 0 →
    ((0x4C ≤ off ∧ off < 0x400) ∨ (0x700 ≤ off ∧ off < 0x100000) ∨ (0x500000 ≤ off ∧ off < 0x800000)
      ∨ (0xD00000 ≤ off ∧ off < 0x1000000)) →
    s.readWord u off = 0#32 ∧ s.writeWord off w = s

/-- 70_reset R250, 10_state R45: while the reset input is asserted a host write has no effect; at its release every
register takes its reset value, PENDING is empty, and every RAM byte is a free value (log entries 2, 7). -/
def Obligations.HardwareReset : Prop :=
  ∀ (s : State) (rest : List HostEvent), s.inReset = true →
    (∀ addr off w, s.hostQueue = .write addr 4 w :: rest → accessOffset s.params addr 4 = .ok off →
      step s = .next (s.popEvent rest))
    ∧ (s.hostQueue = .resetRelease :: rest →
      ∃ t : State, step s = .next t ∧ t.inReset = false ∧ t.pending = none
        ∧ (∀ r : RegName, r ≠ .id → t.readReg r = 0#32) ∧ t.readReg .id = 0x49324C01#32
        ∧ (∀ k, t.frameByte k = Config.powerOnFrame (s.powerOnEpoch + 1) k)
        ∧ (∀ k, t.paletteByte k = Config.powerOnPalette (s.powerOnEpoch + 1) k)
        ∧ (∀ k, t.outputByte k = Config.powerOnOutput (s.powerOnEpoch + 1) k))
end

