-- ==== Sys2Proof/Laws/Arith.lean ====
section
/-! SUPPORT. The laws of the arithmetic and of the byte lanes. -/

namespace Sys2Proof.Machine

/-- 00_scope R10's own form of `ceil_div`. -/
theorem ceilDiv_eq_spec (n d : Nat) (hd : 0 < d) : (ceilDiv n d : Int) = -floorDiv (-(n : Int)) d := by
  unfold ceilDiv floorDiv
  have hd' : (0 : Int) < d := by exact_mod_cast hd
  have key : (n + (d - 1)) / d * d ≤ n + (d - 1) := Nat.div_mul_le_self _ _
  have key2 : n + (d - 1) < (n + (d - 1)) / d * d + d := by
    have := Nat.lt_div_mul_add (a := n + (d - 1)) hd
    omega
  generalize hq : (n + (d - 1)) / d = q at *
  have h1 : ((q * d : Nat) : Int) ≤ n + (d - 1) := by omega
  have h2 : (n : Int) + (d - 1) < ((q * d : Nat) : Int) + d := by omega
  push_cast at h1 h2
  have h3 : -(n : Int) / d = -q := by
    rw [Int.ediv_eq_iff_of_pos hd']
    constructor <;> nlinarith
  omega

theorem ceilDiv_le_iff (n d k : Nat) (hd : 0 < d) : ceilDiv n d ≤ k ↔ n ≤ k * d := by
  unfold ceilDiv
  rw [← Nat.lt_succ_iff, Nat.div_lt_iff_lt_mul hd, Nat.succ_mul]
  omega

theorem clamp_bounds (v lo hi : Int) (h : lo ≤ hi) : lo ≤ clamp v lo hi ∧ clamp v lo hi ≤ hi := by
  unfold clamp
  split <;> [skip; split] <;> constructor <;> omega

theorem clamp_of_mem (v lo hi : Int) (h1 : lo ≤ v) (h2 : v ≤ hi) : clamp v lo hi = v := by
  unfold clamp
  rw [if_neg (by omega), if_neg (by omega)]

/-- The byte `clamp8` stores holds the clamped value. -/
theorem clamp8_toNat (v : Int) : ((clamp8 v).toNat : Int) = clamp v 0 255 := by
  have h := clamp_bounds v 0 255 (by decide)
  unfold clamp8
  rw [BitVec.toNat_ofInt]
  omega

theorem clampSigned255_toInt (w : Word) : (clampSigned255 w).toInt = clamp w.toInt (-255) 255 := by
  have h := clamp_bounds w.toInt (-255) 255 (by decide)
  unfold clampSigned255
  rw [BitVec.toInt_ofInt]
  rw [Int.bmod_eq_of_le] <;> omega

@[simp] theorem lanes_length (w : Word) : (lanes w).length = 4 := rfl

@[simp] theorem lanes_getElem? (w : Word) (j : Nat) (h : j < 4) : (lanes w)[j]? = some (lane w j) := by
  obtain rfl | rfl | rfl | rfl : j = 0 ∨ j = 1 ∨ j = 2 ∨ j = 3 := by omega
  all_goals rfl

/-- A word is its four lanes. -/
theorem wordOfLanes_lane (w : Word) : wordOfLanes (lane w 0) (lane w 1) (lane w 2) (lane w 3) = w := by
  have h : ∀ i, i < 32 → (wordOfLanes (lane w 0) (lane w 1) (lane w 2) (lane w 3)).getLsbD i = w.getLsbD i := by
    intro i hi
    simp only [wordOfLanes, lane, BitVec.getLsbD_append, BitVec.getLsbD_extractLsb']
    by_cases h0 : i < 8
    · simp [h0]
    · by_cases h1 : i < 16
      · simp [h0, show i - 8 < 8 by omega, show 8 + (i - 8) = i by omega]
      · by_cases h2 : i < 24
        · simp [h0, show ¬ i - 8 < 8 by omega, show i - 8 - 8 < 8 by omega,
            show 16 + (i - 8 - 8) = i by omega]
        · simp [h0, show ¬ i - 8 < 8 by omega, show ¬ i - 8 - 8 < 8 by omega, show i - 8 - 8 - 8 < 8 by omega,
            show 24 + (i - 8 - 8 - 8) = i by omega]
  exact BitVec.eq_of_getLsbD_eq h

@[simp] theorem le16_length (n : Nat) : (le16 n).length = 2 := rfl

/-- Two fields side by side, as a number. -/
theorem toNat_append_eq {a b : Nat} (x : BitVec a) (y : BitVec b) : (x ++ y).toNat = x.toNat * 2 ^ b + y.toNat := by
  rw [BitVec.toNat_append, ← Nat.shiftLeft_add_eq_or_of_lt y.isLt, Nat.shiftLeft_eq]

end Sys2Proof.Machine
end

