-- ==== Sys2Proof/Laws/ErrorDiffusion.lean ====
section
/-! SUPPORT. Error diffusion's loop: the accumulator after one pixel's four shares, and the pixel computed at each
index. -/

namespace Sys2Proof.Machine

@[simp] theorem addAt_length (E : List Int) (i : Nat) (v : Int) : (addAt E i v).length = E.length := by
  induction E generalizing i with
  | nil => rfl
  | cons e es ih => cases i <;> simp [addAt, ih]

/-- `E[i] += v` at one position (40_preprocess R117). -/
theorem addAt_getD (E : List Int) (i : Nat) (v : Int) (j : Nat) (hi : i < E.length) :
    (addAt E i v).getD j 0 = E.getD j 0 + (if j = i then v else 0) := by
  induction E generalizing i j with
  | nil => simp at hi
  | cons e es ih =>
    cases i with
    | zero => cases j <;> simp [addAt]
    | succ i =>
      cases j with
      | zero => simp [addAt]
      | succ j => simpa [addAt] using ih i j (by simpa using hi)

@[simp] theorem fsSpread_length (W H : Nat) (E : List Int) (k : Nat) (err : Int) :
    (fsSpread W H E k err).length = E.length := by
  unfold fsSpread
  dsimp only
  split <;> split <;> split <;> split <;> simp

/-- The accumulator after one pixel's four shares, at every position (40_preprocess R117). -/
theorem fsSpread_getD (W H : Nat) (E : List Int) (k : Nat) (err : Int) (j : Nat) (hE : E.length = W * H)
    (hk : k < W * H) :
    (fsSpread W H E k err).getD j 0
      = E.getD j 0 + (if k % W + 1 < W ∧ j = k + 1 then floorDiv (7 * err) 16 else 0)
        + (if (1 ≤ k % W ∧ k / W + 1 < H) ∧ j = k + W - 1 then floorDiv (3 * err) 16 else 0)
        + (if k / W + 1 < H ∧ j = k + W then floorDiv (5 * err) 16 else 0)
        + (if (k % W + 1 < W ∧ k / W + 1 < H) ∧ j = k + W + 1 then floorDiv (1 * err) 16 else 0) := by
  have hW : 0 < W := Nat.pos_of_ne_zero (by rintro rfl; simp at hk)
  have hx : k % W < W := Nat.mod_lt _ hW
  have hy : k / W < H := Nat.div_lt_of_lt_mul hk
  have hkxy : k / W * W + k % W = k := by rw [Nat.mul_comm]; exact Nat.div_add_mod k W
  have hrow : (k / W + 1) * W ≤ H * W := Nat.mul_le_mul_right _ hy
  have hrow2 : k / W + 1 < H → (k / W + 2) * W ≤ H * W := fun h => Nat.mul_le_mul_right _ h
  have hc : W * H = H * W := Nat.mul_comm _ _
  have e1 : (k / W + 1) * W = k / W * W + W := by ring
  have e2 : (k / W + 2) * W = k / W * W + W + W := by ring
  have add : ∀ (c : Prop) [Decidable c] (E : List Int) (i : Nat) (v : Int), E.length = W * H → (c → i < W * H) →
      (if c then addAt E i v else E).getD j 0 = E.getD j 0 + (if c ∧ j = i then v else 0) := by
    intro c _ E i v hE hi
    by_cases hc : c
    · rw [if_pos hc, addAt_getD E i v j (by rw [hE]; exact hi hc)]; simp [hc]
    · simp [hc]
  have len : ∀ (c : Prop) [Decidable c] (E : List Int) (i : Nat) (v : Int), E.length = W * H →
      (if c then addAt E i v else E).length = W * H := by
    intro c _ E i v hE
    split <;> simp [hE]
  unfold fsSpread
  dsimp only
  rw [add _ _ _ _ (len _ _ _ _ (len _ _ _ _ (len _ _ _ _ hE))) (by rintro ⟨h1, h2⟩; have := hrow2 h2; omega),
    add _ _ _ _ (len _ _ _ _ (len _ _ _ _ hE)) (by intro h2; have := hrow2 h2; omega),
    add _ _ _ _ (len _ _ _ _ hE) (by rintro ⟨h1, h2⟩; have := hrow2 h2; omega),
    add _ _ _ _ hE (by intro h1; omega)]

/-- One more pixel of the loop. -/
theorem fsRun_succ (img : Image) (n : Nat) : fsRun img (n + 1) = fsStep img (fsRun img n) n := by
  unfold fsRun
  rw [List.range_succ, List.foldl_append]
  rfl

@[simp] theorem fsRun_E_length (img : Image) (n : Nat) : (fsRun img n).E.length = img.W * img.H := by
  induction n with
  | zero => simp [fsRun]
  | succ n ih => rw [fsRun_succ]; simp [fsStep, ih]

/-- The pixels done so far are, in raster order, what the loop computes at each index. -/
theorem fsRun_done (img : Image) (n : Nat) :
    (fsRun img n).done = (List.range n).map (fun k => fsPixel img (fsRun img k).E k) := by
  induction n with
  | zero => rfl
  | succ n ih => rw [fsRun_succ, List.range_succ, List.map_append, ← ih]; rfl

/-- The trace at an index. -/
theorem fsTrace_getElem? (img : Image) (k : Nat) (h : k < img.W * img.H) :
    (fsTrace img)[k]? = some (fsPixel img (fsRun img k).E k) := by
  unfold fsTrace
  rw [fsRun_done]
  simp [h]

end Sys2Proof.Machine
end

