-- ==== Sys2Proof/Laws/State.lean ====
section
/-! SUPPORT. One lemma per field per update of State, each true by computation, so that no later proof unfolds a
record update. -/

namespace Sys2Proof.Machine

section completeOk

variable (s : State)

@[simp] theorem State.completeOk_params : s.completeOk.params = s.params := rfl
@[simp] theorem State.completeOk_status : s.completeOk.status = s.status.onSuccess := rfl
@[simp] theorem State.completeOk_frameW : s.completeOk.frameW = s.frameW := rfl
@[simp] theorem State.completeOk_frameH : s.completeOk.frameH = s.frameH := rfl
@[simp] theorem State.completeOk_cfg : s.completeOk.cfg = s.cfg := rfl
@[simp] theorem State.completeOk_result : s.completeOk.result = s.result := rfl
@[simp] theorem State.completeOk_frame : s.completeOk.frame = s.frame := rfl
@[simp] theorem State.completeOk_palette : s.completeOk.palette = s.palette := rfl
@[simp] theorem State.completeOk_output : s.completeOk.output = s.output := rfl
@[simp] theorem State.completeOk_pending : s.completeOk.pending = none := rfl
@[simp] theorem State.completeOk_inReset : s.completeOk.inReset = s.inReset := rfl
@[simp] theorem State.completeOk_hostQueue : s.completeOk.hostQueue = s.hostQueue := rfl
@[simp] theorem State.completeOk_readLog : s.completeOk.readLog = s.readLog := rfl
@[simp] theorem State.completeOk_schedule : s.completeOk.schedule = s.schedule := rfl
@[simp] theorem State.completeOk_delayLeft : s.completeOk.delayLeft = 0 := rfl
@[simp] theorem State.completeOk_draws : s.completeOk.draws = s.draws := rfl
@[simp] theorem State.completeOk_powerOnEpoch : s.completeOk.powerOnEpoch = s.powerOnEpoch := rfl

end completeOk

section completeError

variable (s : State) (e : CmdError)

@[simp] theorem State.completeError_params : (s.completeError e).params = s.params := rfl
@[simp] theorem State.completeError_status : (s.completeError e).status = s.status.onError e := rfl
@[simp] theorem State.completeError_frameW : (s.completeError e).frameW = s.frameW := rfl
@[simp] theorem State.completeError_frameH : (s.completeError e).frameH = s.frameH := rfl
@[simp] theorem State.completeError_cfg : (s.completeError e).cfg = s.cfg := rfl
@[simp] theorem State.completeError_result : (s.completeError e).result = s.result := rfl
@[simp] theorem State.completeError_frame : (s.completeError e).frame = s.frame := rfl
@[simp] theorem State.completeError_palette : (s.completeError e).palette = s.palette := rfl
@[simp] theorem State.completeError_output : (s.completeError e).output = s.output := rfl
@[simp] theorem State.completeError_pending : (s.completeError e).pending = none := rfl
@[simp] theorem State.completeError_inReset : (s.completeError e).inReset = s.inReset := rfl
@[simp] theorem State.completeError_hostQueue : (s.completeError e).hostQueue = s.hostQueue := rfl
@[simp] theorem State.completeError_readLog : (s.completeError e).readLog = s.readLog := rfl
@[simp] theorem State.completeError_schedule : (s.completeError e).schedule = s.schedule := rfl
@[simp] theorem State.completeError_delayLeft : (s.completeError e).delayLeft = 0 := rfl
@[simp] theorem State.completeError_draws : (s.completeError e).draws = s.draws := rfl
@[simp] theorem State.completeError_powerOnEpoch : (s.completeError e).powerOnEpoch = s.powerOnEpoch := rfl

end completeError

section writeFrame

variable (s : State) (img : Image)

@[simp] theorem State.writeFrame_params : (s.writeFrame img).params = s.params := rfl
@[simp] theorem State.writeFrame_status : (s.writeFrame img).status = s.status := rfl
@[simp] theorem State.writeFrame_frameW : (s.writeFrame img).frameW = BitVec.ofNat 16 img.W := rfl
@[simp] theorem State.writeFrame_frameH : (s.writeFrame img).frameH = BitVec.ofNat 16 img.H := rfl
@[simp] theorem State.writeFrame_cfg : (s.writeFrame img).cfg = s.cfg := rfl
@[simp] theorem State.writeFrame_result : (s.writeFrame img).result = s.result := rfl
@[simp] theorem State.writeFrame_frame : (s.writeFrame img).frame = Memory.write s.frame 0 img.bytes := rfl
@[simp] theorem State.writeFrame_palette : (s.writeFrame img).palette = s.palette := rfl
@[simp] theorem State.writeFrame_output : (s.writeFrame img).output = s.output := rfl
@[simp] theorem State.writeFrame_pending : (s.writeFrame img).pending = s.pending := rfl
@[simp] theorem State.writeFrame_inReset : (s.writeFrame img).inReset = s.inReset := rfl
@[simp] theorem State.writeFrame_hostQueue : (s.writeFrame img).hostQueue = s.hostQueue := rfl
@[simp] theorem State.writeFrame_readLog : (s.writeFrame img).readLog = s.readLog := rfl
@[simp] theorem State.writeFrame_schedule : (s.writeFrame img).schedule = s.schedule := rfl
@[simp] theorem State.writeFrame_delayLeft : (s.writeFrame img).delayLeft = s.delayLeft := rfl
@[simp] theorem State.writeFrame_draws : (s.writeFrame img).draws = s.draws := rfl
@[simp] theorem State.writeFrame_powerOnEpoch : (s.writeFrame img).powerOnEpoch = s.powerOnEpoch := rfl

end writeFrame

section storeResult

variable (s : State) (img : Image) (e : Encoded)

@[simp] theorem State.storeResult_params : (s.storeResult img e).params = s.params := rfl
@[simp] theorem State.storeResult_status : (s.storeResult img e).status = { s.status with outValid := true } := rfl
@[simp] theorem State.storeResult_frameW : (s.storeResult img e).frameW = s.frameW := rfl
@[simp] theorem State.storeResult_frameH : (s.storeResult img e).frameH = s.frameH := rfl
@[simp] theorem State.storeResult_cfg : (s.storeResult img e).cfg = s.cfg := rfl
@[simp] theorem State.storeResult_result : (s.storeResult img e).result = ⟨BitVec.ofNat 16 img.W, BitVec.ofNat 16 img.H, BitVec.ofNat 32 e.pay.length,
      BitVec.ofNat 32 e.bytes.length, resInfoOf s.cfg e⟩ := rfl
@[simp] theorem State.storeResult_frame : (s.storeResult img e).frame = s.frame := rfl
@[simp] theorem State.storeResult_palette : (s.storeResult img e).palette = s.palette := rfl
@[simp] theorem State.storeResult_output : (s.storeResult img e).output = Memory.write s.output 0 e.bytes := rfl
@[simp] theorem State.storeResult_pending : (s.storeResult img e).pending = s.pending := rfl
@[simp] theorem State.storeResult_inReset : (s.storeResult img e).inReset = s.inReset := rfl
@[simp] theorem State.storeResult_hostQueue : (s.storeResult img e).hostQueue = s.hostQueue := rfl
@[simp] theorem State.storeResult_readLog : (s.storeResult img e).readLog = s.readLog := rfl
@[simp] theorem State.storeResult_schedule : (s.storeResult img e).schedule = s.schedule := rfl
@[simp] theorem State.storeResult_delayLeft : (s.storeResult img e).delayLeft = s.delayLeft := rfl
@[simp] theorem State.storeResult_draws : (s.storeResult img e).draws = s.draws := rfl
@[simp] theorem State.storeResult_powerOnEpoch : (s.storeResult img e).powerOnEpoch = s.powerOnEpoch := rfl

end storeResult

section softReset

variable (s : State)

@[simp] theorem State.softReset_params : s.softReset.params = s.params := rfl
@[simp] theorem State.softReset_status : s.softReset.status = Status.afterSoftReset := rfl
@[simp] theorem State.softReset_frameW : s.softReset.frameW = 0#16 := rfl
@[simp] theorem State.softReset_frameH : s.softReset.frameH = 0#16 := rfl
@[simp] theorem State.softReset_cfg : s.softReset.cfg = ConfigRegs.zero := rfl
@[simp] theorem State.softReset_result : s.softReset.result = ResultRegs.zero := rfl
@[simp] theorem State.softReset_frame : s.softReset.frame = s.frame := rfl
@[simp] theorem State.softReset_palette : s.softReset.palette = s.palette := rfl
@[simp] theorem State.softReset_output : s.softReset.output = s.output := rfl
@[simp] theorem State.softReset_pending : s.softReset.pending = none := rfl
@[simp] theorem State.softReset_inReset : s.softReset.inReset = s.inReset := rfl
@[simp] theorem State.softReset_hostQueue : s.softReset.hostQueue = s.hostQueue := rfl
@[simp] theorem State.softReset_readLog : s.softReset.readLog = s.readLog := rfl
@[simp] theorem State.softReset_schedule : s.softReset.schedule = s.schedule := rfl
@[simp] theorem State.softReset_delayLeft : s.softReset.delayLeft = 0 := rfl
@[simp] theorem State.softReset_draws : s.softReset.draws = s.draws := rfl
@[simp] theorem State.softReset_powerOnEpoch : s.softReset.powerOnEpoch = s.powerOnEpoch := rfl

end softReset

section hardReset

variable (s : State)

@[simp] theorem State.hardReset_params : s.hardReset.params = s.params := rfl
@[simp] theorem State.hardReset_status : s.hardReset.status = Status.zero := rfl
@[simp] theorem State.hardReset_frameW : s.hardReset.frameW = 0#16 := rfl
@[simp] theorem State.hardReset_frameH : s.hardReset.frameH = 0#16 := rfl
@[simp] theorem State.hardReset_cfg : s.hardReset.cfg = ConfigRegs.zero := rfl
@[simp] theorem State.hardReset_result : s.hardReset.result = ResultRegs.zero := rfl
@[simp] theorem State.hardReset_frame : s.hardReset.frame = [] := rfl
@[simp] theorem State.hardReset_palette : s.hardReset.palette = [] := rfl
@[simp] theorem State.hardReset_output : s.hardReset.output = [] := rfl
@[simp] theorem State.hardReset_pending : s.hardReset.pending = none := rfl
@[simp] theorem State.hardReset_inReset : s.hardReset.inReset = false := rfl
@[simp] theorem State.hardReset_hostQueue : s.hardReset.hostQueue = s.hostQueue := rfl
@[simp] theorem State.hardReset_readLog : s.hardReset.readLog = s.readLog := rfl
@[simp] theorem State.hardReset_schedule : s.hardReset.schedule = s.schedule := rfl
@[simp] theorem State.hardReset_delayLeft : s.hardReset.delayLeft = 0 := rfl
@[simp] theorem State.hardReset_draws : s.hardReset.draws = s.draws := rfl
@[simp] theorem State.hardReset_powerOnEpoch : s.hardReset.powerOnEpoch = s.powerOnEpoch + 1 := rfl

end hardReset

section dropWrite

variable (s : State)

@[simp] theorem State.dropWrite_params : s.dropWrite.params = s.params := rfl
@[simp] theorem State.dropWrite_status : s.dropWrite.status = s.status.onDroppedWrite := rfl
@[simp] theorem State.dropWrite_frameW : s.dropWrite.frameW = s.frameW := rfl
@[simp] theorem State.dropWrite_frameH : s.dropWrite.frameH = s.frameH := rfl
@[simp] theorem State.dropWrite_cfg : s.dropWrite.cfg = s.cfg := rfl
@[simp] theorem State.dropWrite_result : s.dropWrite.result = s.result := rfl
@[simp] theorem State.dropWrite_frame : s.dropWrite.frame = s.frame := rfl
@[simp] theorem State.dropWrite_palette : s.dropWrite.palette = s.palette := rfl
@[simp] theorem State.dropWrite_output : s.dropWrite.output = s.output := rfl
@[simp] theorem State.dropWrite_pending : s.dropWrite.pending = s.pending := rfl
@[simp] theorem State.dropWrite_inReset : s.dropWrite.inReset = s.inReset := rfl
@[simp] theorem State.dropWrite_hostQueue : s.dropWrite.hostQueue = s.hostQueue := rfl
@[simp] theorem State.dropWrite_readLog : s.dropWrite.readLog = s.readLog := rfl
@[simp] theorem State.dropWrite_schedule : s.dropWrite.schedule = s.schedule := rfl
@[simp] theorem State.dropWrite_delayLeft : s.dropWrite.delayLeft = s.delayLeft := rfl
@[simp] theorem State.dropWrite_draws : s.dropWrite.draws = s.draws := rfl
@[simp] theorem State.dropWrite_powerOnEpoch : s.dropWrite.powerOnEpoch = s.powerOnEpoch := rfl

end dropWrite

section popEvent

variable (s : State) (rest : List HostEvent)

@[simp] theorem State.popEvent_params : (s.popEvent rest).params = s.params := rfl
@[simp] theorem State.popEvent_status : (s.popEvent rest).status = s.status := rfl
@[simp] theorem State.popEvent_frameW : (s.popEvent rest).frameW = s.frameW := rfl
@[simp] theorem State.popEvent_frameH : (s.popEvent rest).frameH = s.frameH := rfl
@[simp] theorem State.popEvent_cfg : (s.popEvent rest).cfg = s.cfg := rfl
@[simp] theorem State.popEvent_result : (s.popEvent rest).result = s.result := rfl
@[simp] theorem State.popEvent_frame : (s.popEvent rest).frame = s.frame := rfl
@[simp] theorem State.popEvent_palette : (s.popEvent rest).palette = s.palette := rfl
@[simp] theorem State.popEvent_output : (s.popEvent rest).output = s.output := rfl
@[simp] theorem State.popEvent_pending : (s.popEvent rest).pending = s.pending := rfl
@[simp] theorem State.popEvent_inReset : (s.popEvent rest).inReset = s.inReset := rfl
@[simp] theorem State.popEvent_hostQueue : (s.popEvent rest).hostQueue = rest := rfl
@[simp] theorem State.popEvent_readLog : (s.popEvent rest).readLog = s.readLog := rfl
@[simp] theorem State.popEvent_schedule : (s.popEvent rest).schedule = s.schedule := rfl
@[simp] theorem State.popEvent_delayLeft : (s.popEvent rest).delayLeft = s.delayLeft - 1 := rfl
@[simp] theorem State.popEvent_draws : (s.popEvent rest).draws = s.draws := rfl
@[simp] theorem State.popEvent_powerOnEpoch : (s.popEvent rest).powerOnEpoch = s.powerOnEpoch := rfl

end popEvent

section storePalette

variable (s : State) (m : Nat) (w : Word)

@[simp] theorem State.storePalette_params : (s.storePalette m w).params = s.params := rfl
@[simp] theorem State.storePalette_status : (s.storePalette m w).status = s.status := rfl
@[simp] theorem State.storePalette_frameW : (s.storePalette m w).frameW = s.frameW := rfl
@[simp] theorem State.storePalette_frameH : (s.storePalette m w).frameH = s.frameH := rfl
@[simp] theorem State.storePalette_cfg : (s.storePalette m w).cfg = s.cfg := rfl
@[simp] theorem State.storePalette_result : (s.storePalette m w).result = s.result := rfl
@[simp] theorem State.storePalette_frame : (s.storePalette m w).frame = s.frame := rfl
@[simp] theorem State.storePalette_palette : (s.storePalette m w).palette = Memory.write s.palette (4 * m) (lanes w) := rfl
@[simp] theorem State.storePalette_output : (s.storePalette m w).output = s.output := rfl
@[simp] theorem State.storePalette_pending : (s.storePalette m w).pending = s.pending := rfl
@[simp] theorem State.storePalette_inReset : (s.storePalette m w).inReset = s.inReset := rfl
@[simp] theorem State.storePalette_hostQueue : (s.storePalette m w).hostQueue = s.hostQueue := rfl
@[simp] theorem State.storePalette_readLog : (s.storePalette m w).readLog = s.readLog := rfl
@[simp] theorem State.storePalette_schedule : (s.storePalette m w).schedule = s.schedule := rfl
@[simp] theorem State.storePalette_delayLeft : (s.storePalette m w).delayLeft = s.delayLeft := rfl
@[simp] theorem State.storePalette_draws : (s.storePalette m w).draws = s.draws := rfl
@[simp] theorem State.storePalette_powerOnEpoch : (s.storePalette m w).powerOnEpoch = s.powerOnEpoch := rfl

end storePalette

section storeFrame

variable (s : State) (i : Nat) (w : Word)

@[simp] theorem State.storeFrame_params : (s.storeFrame i w).params = s.params := rfl
@[simp] theorem State.storeFrame_status : (s.storeFrame i w).status = s.status := rfl
@[simp] theorem State.storeFrame_frameW : (s.storeFrame i w).frameW = s.frameW := rfl
@[simp] theorem State.storeFrame_frameH : (s.storeFrame i w).frameH = s.frameH := rfl
@[simp] theorem State.storeFrame_cfg : (s.storeFrame i w).cfg = s.cfg := rfl
@[simp] theorem State.storeFrame_result : (s.storeFrame i w).result = s.result := rfl
@[simp] theorem State.storeFrame_frame : (s.storeFrame i w).frame = Memory.write s.frame (4 * i) (lanes w) := rfl
@[simp] theorem State.storeFrame_palette : (s.storeFrame i w).palette = s.palette := rfl
@[simp] theorem State.storeFrame_output : (s.storeFrame i w).output = s.output := rfl
@[simp] theorem State.storeFrame_pending : (s.storeFrame i w).pending = s.pending := rfl
@[simp] theorem State.storeFrame_inReset : (s.storeFrame i w).inReset = s.inReset := rfl
@[simp] theorem State.storeFrame_hostQueue : (s.storeFrame i w).hostQueue = s.hostQueue := rfl
@[simp] theorem State.storeFrame_readLog : (s.storeFrame i w).readLog = s.readLog := rfl
@[simp] theorem State.storeFrame_schedule : (s.storeFrame i w).schedule = s.schedule := rfl
@[simp] theorem State.storeFrame_delayLeft : (s.storeFrame i w).delayLeft = s.delayLeft := rfl
@[simp] theorem State.storeFrame_draws : (s.storeFrame i w).draws = s.draws := rfl
@[simp] theorem State.storeFrame_powerOnEpoch : (s.storeFrame i w).powerOnEpoch = s.powerOnEpoch := rfl

end storeFrame

section placeCommand

variable (s : State) (w : Word)

@[simp] theorem State.placeCommand_params : (s.placeCommand w).params = s.params := rfl
@[simp] theorem State.placeCommand_status : (s.placeCommand w).status = s.status := rfl
@[simp] theorem State.placeCommand_frameW : (s.placeCommand w).frameW = s.frameW := rfl
@[simp] theorem State.placeCommand_frameH : (s.placeCommand w).frameH = s.frameH := rfl
@[simp] theorem State.placeCommand_cfg : (s.placeCommand w).cfg = s.cfg := rfl
@[simp] theorem State.placeCommand_result : (s.placeCommand w).result = s.result := rfl
@[simp] theorem State.placeCommand_frame : (s.placeCommand w).frame = s.frame := rfl
@[simp] theorem State.placeCommand_palette : (s.placeCommand w).palette = s.palette := rfl
@[simp] theorem State.placeCommand_output : (s.placeCommand w).output = s.output := rfl
@[simp] theorem State.placeCommand_pending : (s.placeCommand w).pending = some w := rfl
@[simp] theorem State.placeCommand_inReset : (s.placeCommand w).inReset = false := rfl
@[simp] theorem State.placeCommand_hostQueue : (s.placeCommand w).hostQueue = s.hostQueue := rfl
@[simp] theorem State.placeCommand_readLog : (s.placeCommand w).readLog = s.readLog := rfl
@[simp] theorem State.placeCommand_schedule : (s.placeCommand w).schedule = s.schedule := rfl
@[simp] theorem State.placeCommand_delayLeft : (s.placeCommand w).delayLeft = 0 := rfl
@[simp] theorem State.placeCommand_draws : (s.placeCommand w).draws = s.draws := rfl
@[simp] theorem State.placeCommand_powerOnEpoch : (s.placeCommand w).powerOnEpoch = s.powerOnEpoch := rfl

end placeCommand

section doRead

variable (s : State) (rest : List HostEvent) (off : Nat)

@[simp] theorem State.doRead_params : (s.doRead rest off).params = s.params := rfl
@[simp] theorem State.doRead_status : (s.doRead rest off).status = s.status := rfl
@[simp] theorem State.doRead_frameW : (s.doRead rest off).frameW = s.frameW := rfl
@[simp] theorem State.doRead_frameH : (s.doRead rest off).frameH = s.frameH := rfl
@[simp] theorem State.doRead_cfg : (s.doRead rest off).cfg = s.cfg := rfl
@[simp] theorem State.doRead_result : (s.doRead rest off).result = s.result := rfl
@[simp] theorem State.doRead_frame : (s.doRead rest off).frame = s.frame := rfl
@[simp] theorem State.doRead_palette : (s.doRead rest off).palette = s.palette := rfl
@[simp] theorem State.doRead_output : (s.doRead rest off).output = s.output := rfl
@[simp] theorem State.doRead_pending : (s.doRead rest off).pending = s.pending := rfl
@[simp] theorem State.doRead_inReset : (s.doRead rest off).inReset = s.inReset := rfl
@[simp] theorem State.doRead_hostQueue : (s.doRead rest off).hostQueue = rest := rfl
@[simp] theorem State.doRead_readLog : (s.doRead rest off).readLog = s.readLog ++ [s.busRead off] := rfl
@[simp] theorem State.doRead_schedule : (s.doRead rest off).schedule = s.schedule := rfl
@[simp] theorem State.doRead_delayLeft : (s.doRead rest off).delayLeft = s.delayLeft - 1 := rfl
@[simp] theorem State.doRead_draws : (s.doRead rest off).draws = s.draws + 1 := rfl
@[simp] theorem State.doRead_powerOnEpoch : (s.doRead rest off).powerOnEpoch = s.powerOnEpoch := rfl

end doRead

section accept

variable (s : State) (w : Word)

@[simp] theorem State.accept_params : (s.accept w).params = s.params := by
  unfold State.accept; split <;> rfl
@[simp] theorem State.accept_status : (s.accept w).status = s.status.onAccept := by
  unfold State.accept; split <;> rfl
@[simp] theorem State.accept_frameW : (s.accept w).frameW = s.frameW := by
  unfold State.accept; split <;> rfl
@[simp] theorem State.accept_frameH : (s.accept w).frameH = s.frameH := by
  unfold State.accept; split <;> rfl
@[simp] theorem State.accept_cfg : (s.accept w).cfg = s.cfg := by
  unfold State.accept; split <;> rfl
@[simp] theorem State.accept_result : (s.accept w).result = s.result := by
  unfold State.accept; split <;> rfl
@[simp] theorem State.accept_frame : (s.accept w).frame = s.frame := by
  unfold State.accept; split <;> rfl
@[simp] theorem State.accept_palette : (s.accept w).palette = s.palette := by
  unfold State.accept; split <;> rfl
@[simp] theorem State.accept_output : (s.accept w).output = s.output := by
  unfold State.accept; split <;> rfl
@[simp] theorem State.accept_pending : (s.accept w).pending = some w := by
  unfold State.accept; split <;> rfl
@[simp] theorem State.accept_inReset : (s.accept w).inReset = s.inReset := by
  unfold State.accept; split <;> rfl
@[simp] theorem State.accept_hostQueue : (s.accept w).hostQueue = s.hostQueue := by
  unfold State.accept; split <;> rfl
@[simp] theorem State.accept_readLog : (s.accept w).readLog = s.readLog := by
  unfold State.accept; split <;> rfl
@[simp] theorem State.accept_powerOnEpoch : (s.accept w).powerOnEpoch = s.powerOnEpoch := by
  unfold State.accept; split <;> rfl

end accept

section storeReg

variable (s : State) (r : RegName) (w : Word)

@[simp] theorem State.storeReg_params : (s.storeReg r w).params = s.params := by
  cases r <;> rfl
@[simp] theorem State.storeReg_status : (s.storeReg r w).status = s.status := by
  cases r <;> rfl
@[simp] theorem State.storeReg_result : (s.storeReg r w).result = s.result := by
  cases r <;> rfl
@[simp] theorem State.storeReg_frame : (s.storeReg r w).frame = s.frame := by
  cases r <;> rfl
@[simp] theorem State.storeReg_palette : (s.storeReg r w).palette = s.palette := by
  cases r <;> rfl
@[simp] theorem State.storeReg_output : (s.storeReg r w).output = s.output := by
  cases r <;> rfl
@[simp] theorem State.storeReg_pending : (s.storeReg r w).pending = s.pending := by
  cases r <;> rfl
@[simp] theorem State.storeReg_inReset : (s.storeReg r w).inReset = s.inReset := by
  cases r <;> rfl
@[simp] theorem State.storeReg_hostQueue : (s.storeReg r w).hostQueue = s.hostQueue := by
  cases r <;> rfl
@[simp] theorem State.storeReg_readLog : (s.storeReg r w).readLog = s.readLog := by
  cases r <;> rfl
@[simp] theorem State.storeReg_schedule : (s.storeReg r w).schedule = s.schedule := by
  cases r <;> rfl
@[simp] theorem State.storeReg_delayLeft : (s.storeReg r w).delayLeft = s.delayLeft := by
  cases r <;> rfl
@[simp] theorem State.storeReg_draws : (s.storeReg r w).draws = s.draws := by
  cases r <;> rfl
@[simp] theorem State.storeReg_powerOnEpoch : (s.storeReg r w).powerOnEpoch = s.powerOnEpoch := by
  cases r <;> rfl

end storeReg

section writeCmd

variable (s : State) (w : Word)

@[simp] theorem State.writeCmd_params : (s.writeCmd w).params = s.params := by
  unfold State.writeCmd; split <;> simp
@[simp] theorem State.writeCmd_result : (s.writeCmd w).result = s.result := by
  unfold State.writeCmd; split <;> simp
@[simp] theorem State.writeCmd_frame : (s.writeCmd w).frame = s.frame := by
  unfold State.writeCmd; split <;> simp
@[simp] theorem State.writeCmd_palette : (s.writeCmd w).palette = s.palette := by
  unfold State.writeCmd; split <;> simp
@[simp] theorem State.writeCmd_output : (s.writeCmd w).output = s.output := by
  unfold State.writeCmd; split <;> simp
@[simp] theorem State.writeCmd_inReset : (s.writeCmd w).inReset = s.inReset := by
  unfold State.writeCmd; split <;> simp
@[simp] theorem State.writeCmd_hostQueue : (s.writeCmd w).hostQueue = s.hostQueue := by
  unfold State.writeCmd; split <;> simp
@[simp] theorem State.writeCmd_readLog : (s.writeCmd w).readLog = s.readLog := by
  unfold State.writeCmd; split <;> simp
@[simp] theorem State.writeCmd_powerOnEpoch : (s.writeCmd w).powerOnEpoch = s.powerOnEpoch := by
  unfold State.writeCmd; split <;> simp
@[simp] theorem State.writeCmd_frameW : (s.writeCmd w).frameW = s.frameW := by
  unfold State.writeCmd; split <;> simp
@[simp] theorem State.writeCmd_frameH : (s.writeCmd w).frameH = s.frameH := by
  unfold State.writeCmd; split <;> simp
@[simp] theorem State.writeCmd_cfg : (s.writeCmd w).cfg = s.cfg := by
  unfold State.writeCmd; split <;> simp

end writeCmd

section writeReg

variable (s : State) (r : RegName) (w : Word)

@[simp] theorem State.writeReg_params : (s.writeReg r w).params = s.params := by
  cases r <;> simp [State.writeReg, isConfigReg] <;> split <;> simp
@[simp] theorem State.writeReg_result : (s.writeReg r w).result = s.result := by
  cases r <;> simp [State.writeReg, isConfigReg] <;> split <;> simp
@[simp] theorem State.writeReg_frame : (s.writeReg r w).frame = s.frame := by
  cases r <;> simp [State.writeReg, isConfigReg] <;> split <;> simp
@[simp] theorem State.writeReg_palette : (s.writeReg r w).palette = s.palette := by
  cases r <;> simp [State.writeReg, isConfigReg] <;> split <;> simp
@[simp] theorem State.writeReg_output : (s.writeReg r w).output = s.output := by
  cases r <;> simp [State.writeReg, isConfigReg] <;> split <;> simp
@[simp] theorem State.writeReg_inReset : (s.writeReg r w).inReset = s.inReset := by
  cases r <;> simp [State.writeReg, isConfigReg] <;> split <;> simp
@[simp] theorem State.writeReg_hostQueue : (s.writeReg r w).hostQueue = s.hostQueue := by
  cases r <;> simp [State.writeReg, isConfigReg] <;> split <;> simp
@[simp] theorem State.writeReg_readLog : (s.writeReg r w).readLog = s.readLog := by
  cases r <;> simp [State.writeReg, isConfigReg] <;> split <;> simp
@[simp] theorem State.writeReg_powerOnEpoch : (s.writeReg r w).powerOnEpoch = s.powerOnEpoch := by
  cases r <;> simp [State.writeReg, isConfigReg] <;> split <;> simp

end writeReg

section writeWord

variable (s : State) (off : Nat) (w : Word)

@[simp] theorem State.writeWord_params : (s.writeWord off w).params = s.params := by
  unfold State.writeWord; split <;> (try split) <;> (try split) <;> simp
@[simp] theorem State.writeWord_result : (s.writeWord off w).result = s.result := by
  unfold State.writeWord; split <;> (try split) <;> (try split) <;> simp
@[simp] theorem State.writeWord_output : (s.writeWord off w).output = s.output := by
  unfold State.writeWord; split <;> (try split) <;> (try split) <;> simp
@[simp] theorem State.writeWord_inReset : (s.writeWord off w).inReset = s.inReset := by
  unfold State.writeWord; split <;> (try split) <;> (try split) <;> simp
@[simp] theorem State.writeWord_hostQueue : (s.writeWord off w).hostQueue = s.hostQueue := by
  unfold State.writeWord; split <;> (try split) <;> (try split) <;> simp
@[simp] theorem State.writeWord_readLog : (s.writeWord off w).readLog = s.readLog := by
  unfold State.writeWord; split <;> (try split) <;> (try split) <;> simp
@[simp] theorem State.writeWord_powerOnEpoch : (s.writeWord off w).powerOnEpoch = s.powerOnEpoch := by
  unfold State.writeWord; split <;> (try split) <;> (try split) <;> simp

end writeWord

end Sys2Proof.Machine
end

