-- ==== Sys2Proof/Laws/HostPort.lean ====
section
/-! SUPPORT. The host port: the regions of offsets, the lanes of a word read, STATUS.BUSY and RES_INFO as read,
what an idle write stores, and what a write leaves alone. -/

namespace Sys2Proof.Machine

theorem regionOf_frame {i : Nat} (h : 0x100000 + 4 * i < 0x500000) : regionOf (0x100000 + 4 * i) = .frame := by
  unfold regionOf
  split_ifs <;> first | rfl | omega

theorem regionOf_palette {m : Nat} (h : m < 192) : regionOf (0x400 + 4 * m) = .palette := by
  unfold regionOf
  split_ifs <;> first | rfl | omega

theorem regionOf_output {m : Nat} (h : 0x800000 + 4 * m ≤ 0xCFFFFC) : regionOf (0x800000 + 4 * m) = .output := by
  unfold regionOf
  split_ifs <;> first | rfl | omega

/-- Past the map of registers no offset holds one (10_state R34). -/
theorem regAt_none {off : Nat} (h : 0x4C ≤ off) : regAt off = none := by
  unfold regAt
  split <;> first | rfl | omega

/-- Each register is found at its offset. -/
theorem regAt_regOffset (r : RegName) : regAt (regOffset r) = some r := by cases r <;> rfl

theorem regionOf_regOffset (r : RegName) : regionOf (regOffset r) = .registers := by cases r <;> rfl

/-- The lanes of a word built from four bytes are those bytes (20_memory R68). -/
theorem lanes_wordOfLanes (b0 b1 b2 b3 : Byte) :
    (wordOfLanes b0 b1 b2 b3).extractLsb' 0 8 = b0 ∧ (wordOfLanes b0 b1 b2 b3).extractLsb' 8 8 = b1
      ∧ (wordOfLanes b0 b1 b2 b3).extractLsb' 16 8 = b2 ∧ (wordOfLanes b0 b1 b2 b3).extractLsb' 24 8 = b3 := by
  unfold wordOfLanes
  refine ⟨?_, ?_, ?_, ?_⟩ <;> apply BitVec.eq_of_getLsbD_eq <;> intro i hi <;>
    simp only [BitVec.getLsbD_extractLsb', BitVec.getLsbD_append] <;> simp [hi]
  · simp [show ¬ 16 + i < 8 by omega, show ¬ 16 + i - 8 < 8 by omega, show 16 + i - 8 - 8 = i by omega, hi]
  · simp [show ¬ 24 + i < 8 by omega, show ¬ 24 + i - 8 < 8 by omega, show ¬ 24 + i - 8 - 8 < 8 by omega,
      show 24 + i - 8 - 8 - 8 = i by omega, hi]

/-- Bit 0 of STATUS as read is BUSY (10_state R24). -/
theorem statusWord_busy (s : State) : s.statusWord.getLsbD 0 = s.busy := by
  simp only [State.statusWord, bit, BitVec.getLsbD_append]
  simp

/-- An idle write to a configuration register is what that register stores (10_state R44). -/
theorem State.writeWord_config (s : State) (r : RegName) (w : Word) (hp : s.pending = none)
    (hr : isConfigReg r = true) : s.writeWord (regOffset r) w = s.storeReg r w := by
  have hb : s.busy = false := by simp [State.busy, hp]
  unfold State.writeWord
  rw [regionOf_regOffset, regAt_regOffset]
  cases r <;> first | (cases hr; done) | simp [State.writeReg, isConfigReg, hb]

/-- RES_INFO's layout, as a number (10_state R38). -/
theorem ResInfo.toWord_toNat (r : ResInfo) :
    r.toWord.toNat = r.fmt.toNat + 256 * (scanModeCode r.mode).toNat + (if r.hasHeader then 2 ^ 16 else 0)
      + (if r.hasPalette then 2 ^ 17 else 0) := by
  obtain ⟨f, m, h, p⟩ := r
  cases m <;> cases h <;> cases p <;> revert f <;> decide

/-- A write leaves the parameters and what the host still does alone. -/
theorem State.writeWord_env (s : State) (off : Nat) (w : Word) :
    (s.writeWord off w).params = s.params ∧ (s.writeWord off w).hostQueue = s.hostQueue := by
  unfold State.writeWord
  split
  · split
    · rename_i r _
      cases r
      case cmd =>
        simp only [State.writeReg, State.writeCmd, State.accept]
        split <;> [skip; split] <;> simp
      case status => simp [State.writeReg]
      all_goals
        simp only [State.writeReg, isConfigReg, if_true, Bool.false_eq_true, if_false]
        first | (split <;> simp [State.storeReg]) | simp
    · simp
  · split <;> simp
  · split <;> [split; skip] <;> simp
  · simp
  · simp

end Sys2Proof.Machine
end

