-- ==== Sys2Proof/Laws/Memory.lean ====
section
/-! SUPPORT. The laws of a RAM: read after write, and that a write keeps the canonical form. -/

namespace Sys2Proof.Machine

theorem Memory.get?_append (m n : Memory) (a : Nat) :
    Memory.get? (m ++ n) a = (Memory.get? m a).or (Memory.get? n a) := by
  induction m with
  | nil => simp [Memory.get?]
  | cons c m ih =>
    obtain ⟨k, v⟩ := c
    by_cases h : k = a <;> simp [Memory.get?, h, ih]

theorem Memory.get?_filter (m : Memory) (p : Nat → Bool) (a : Nat) :
    Memory.get? (m.filter (fun c => p c.1)) a = if p a then Memory.get? m a else none := by
  induction m with
  | nil => simp [Memory.get?]
  | cons c m ih =>
    obtain ⟨k, v⟩ := c
    by_cases hk : k = a
    · subst hk
      by_cases hp : p k <;> simp [Memory.get?, hp, ih]
    · by_cases hp : p k <;> simp [Memory.get?, hp, hk, ih]

theorem Memory.get?_block (base : Nat) (bytes : List Byte) (a : Nat) :
    Memory.get? (Memory.block base bytes) a = if base ≤ a then bytes[a - base]? else none := by
  induction bytes generalizing base with
  | nil => simp [Memory.block, Memory.get?]
  | cons v rest ih =>
    rw [Memory.block, Memory.get?, ih]
    by_cases h : base = a
    · subst h; simp
    · by_cases h2 : base + 1 ≤ a
      · rw [if_neg h, if_pos h2, if_pos (by omega), show a - base = (a - (base + 1)) + 1 by omega]
        simp
      · rw [if_neg h, if_neg h2, if_neg (by omega)]

/-- Read after write: the written bytes at their addresses, every other address as before. -/
theorem Memory.get?_write (m : Memory) (base : Nat) (bytes : List Byte) (a : Nat) :
    Memory.get? (Memory.write m base bytes) a
      = if base ≤ a ∧ a < base + bytes.length then bytes[a - base]? else Memory.get? m a := by
  unfold Memory.write
  rw [Memory.get?_append, Memory.get?_append, Memory.get?_block,
    Memory.get?_filter m (fun k => decide (k < base)),
    Memory.get?_filter m (fun k => decide (base + bytes.length ≤ k))]
  by_cases h1 : a < base
  · simp [h1, show ¬ base ≤ a by omega, show ¬ base + bytes.length ≤ a by omega]
  · by_cases h2 : a < base + bytes.length
    · have h4 : a - base < bytes.length := by omega
      simp [h1, show base ≤ a by omega, h2, h4]
    · have h3 : bytes[a - base]? = none := by simp; omega
      simp only [h1, show base ≤ a by omega, h2, show base + bytes.length ≤ a by omega, h3, decide_true, decide_false,
        if_true, and_false, if_false, Bool.false_eq_true, Option.none_or, Option.or_none]

theorem Memory.get?_write_outside (m : Memory) (base : Nat) (bytes : List Byte) (a : Nat)
    (h : a < base ∨ base + bytes.length ≤ a) : Memory.get? (Memory.write m base bytes) a = Memory.get? m a := by
  rw [Memory.get?_write, if_neg (by omega)]

theorem Memory.get?_write_inside (m : Memory) (base : Nat) (bytes : List Byte) (k : Nat) (h : k < bytes.length) :
    Memory.get? (Memory.write m base bytes) (base + k) = some bytes[k] := by
  rw [Memory.get?_write, if_pos (by omega)]
  simp [h]

/-! ### The canonical form -/

theorem Memory.wfFrom_mono {size lo lo' : Nat} {m : Memory} (h : Memory.wfFrom size lo m = true) (hl : lo' ≤ lo) :
    Memory.wfFrom size lo' m = true := by
  cases m with
  | nil => rfl
  | cons c m =>
    obtain ⟨k, v⟩ := c
    simp [Memory.wfFrom] at h ⊢
    exact ⟨⟨by omega, h.1.2⟩, h.2⟩

theorem Memory.wfFrom_filter_ge {size lo : Nat} {m : Memory} (h : Memory.wfFrom size lo m = true) (b : Nat) :
    Memory.wfFrom size (max lo b) (m.filter (fun c => decide (b ≤ c.1))) = true := by
  induction m generalizing lo with
  | nil => rfl
  | cons c m ih =>
    obtain ⟨k, v⟩ := c
    simp only [Memory.wfFrom, Bool.and_eq_true, decide_eq_true_eq] at h
    have ih' := ih h.2
    by_cases hk : b ≤ k
    · simp only [List.filter_cons, hk, decide_true, if_true, Memory.wfFrom, Bool.and_eq_true, decide_eq_true_eq]
      exact ⟨⟨by omega, h.1.2⟩, Memory.wfFrom_mono ih' (by omega)⟩
    · simp only [List.filter_cons, hk, decide_false]
      exact Memory.wfFrom_mono ih' (by omega)

/-- A canonical list below `b`, then one canonical from `b` on. -/
theorem Memory.wfFrom_filter_lt_append {size lo b : Nat} {m n : Memory} (h : Memory.wfFrom size lo m = true)
    (hlo : lo ≤ b) (hn : Memory.wfFrom size b n = true) :
    Memory.wfFrom size lo (m.filter (fun c => decide (c.1 < b)) ++ n) = true := by
  induction m generalizing lo with
  | nil => exact Memory.wfFrom_mono hn hlo
  | cons c m ih =>
    obtain ⟨k, v⟩ := c
    simp only [Memory.wfFrom, Bool.and_eq_true, decide_eq_true_eq] at h
    by_cases hk : k < b
    · simp only [List.filter_cons, hk, decide_true, if_true, List.cons_append, Memory.wfFrom, Bool.and_eq_true,
        decide_eq_true_eq]
      exact ⟨h.1, ih h.2 (by omega)⟩
    · simp only [List.filter_cons, hk, decide_false]
      have hnone : m.filter (fun c => decide (c.1 < b)) = [] := by
        clear ih
        have h2 := h.2
        generalize hl : k + 1 = l at h2
        have hbl : b ≤ l := by omega
        clear hl h
        induction m generalizing l with
        | nil => rfl
        | cons c m ih =>
          obtain ⟨k', v'⟩ := c
          simp only [Memory.wfFrom, Bool.and_eq_true, decide_eq_true_eq] at h2
          rw [List.filter_cons, if_neg (by simp; omega)]
          exact ih (k' + 1) h2.2 (by omega)
      simpa [hnone] using Memory.wfFrom_mono hn hlo

theorem Memory.wfFrom_block_append {size base : Nat} {bytes : List Byte} {n : Memory}
    (hsize : base + bytes.length ≤ size) (hn : Memory.wfFrom size (base + bytes.length) n = true) :
    Memory.wfFrom size base (Memory.block base bytes ++ n) = true := by
  induction bytes generalizing base with
  | nil => simpa [Memory.block] using hn
  | cons v rest ih =>
    simp only [List.length_cons] at hsize hn
    simp only [Memory.block, List.cons_append, Memory.wfFrom, Bool.and_eq_true, decide_eq_true_eq]
    exact ⟨⟨le_refl _, by omega⟩, ih (by omega) (Memory.wfFrom_mono hn (by omega))⟩

/-- A write within the RAM keeps the canonical form. -/
theorem Memory.wf_write {size : Nat} {m : Memory} (h : Memory.wf size m = true) (base : Nat) (bytes : List Byte)
    (hsize : base + bytes.length ≤ size) : Memory.wf size (Memory.write m base bytes) = true := by
  unfold Memory.wf Memory.write at *
  rw [List.append_assoc]
  refine Memory.wfFrom_filter_lt_append h (Nat.zero_le _) (Memory.wfFrom_block_append hsize ?_)
  exact Memory.wfFrom_mono (Memory.wfFrom_filter_ge h _) (by omega)

theorem Memory.wf_nil (size : Nat) : Memory.wf size [] = true := rfl

end Sys2Proof.Machine
end

