-- ==== Sys2Proof/Laws/Image.lean ====
section
/-! SUPPORT. The laws of images and of the frame: pixels of a tabulated image, and the frame read back after a
write. -/

namespace Sys2Proof.Machine

@[simp] theorem Image.tabulate_W (W H : Nat) (f : Nat → Nat → Pixel) : (Image.tabulate W H f).W = W := rfl

@[simp] theorem Image.tabulate_H (W H : Nat) (f : Nat → Nat → Pixel) : (Image.tabulate W H f).H = H := rfl

theorem Image.tabulate_px (W H : Nat) (f : Nat → Nat → Pixel) (i : Nat) :
    (Image.tabulate W H f).px i = f (i % W) (i / W) := rfl

theorem row_major_mod {W x y : Nat} (hx : x < W) : (y * W + x) % W = x := by
  rw [Nat.add_comm, Nat.add_mul_mod_self_right, Nat.mod_eq_of_lt hx]

theorem row_major_div {W x y : Nat} (hx : x < W) : (y * W + x) / W = y := by
  rw [Nat.add_comm, Nat.add_mul_div_right _ _ (by omega), Nat.div_eq_of_lt hx, Nat.zero_add]

theorem row_major_lt {W H x y : Nat} (hx : x < W) (hy : y < H) : y * W + x < W * H := by
  calc y * W + x < y * W + W := by omega
    _ = (y + 1) * W := by ring
    _ ≤ H * W := Nat.mul_le_mul_right _ hy
    _ = W * H := Nat.mul_comm _ _

theorem row_lt {W H i : Nat} (h : i < W * H) : i / W < H := Nat.div_lt_of_lt_mul h

theorem col_lt {W H i : Nat} (h : i < W * H) : i % W < W :=
  Nat.mod_lt _ (Nat.pos_of_ne_zero (by rintro rfl; simp at h))

theorem row_major_self (W i : Nat) : i / W * W + i % W = i := by
  rw [Nat.mul_comm]; exact Nat.div_add_mod i W

/-- The pixel of a tabulated image at coordinates inside its width. -/
theorem Image.tabulate_pixel {W H x y : Nat} (f : Nat → Nat → Pixel) (hx : x < W) :
    (Image.tabulate W H f).pixel x y = f x y := by
  simp only [Image.pixel, Image.tabulate_px, Image.tabulate_W, row_major_mod hx, row_major_div hx]

@[simp] theorem Image.toList_length (img : Image) : img.toList.length = img.W * img.H := by simp [Image.toList]

theorem flatMap_bytes_length (l : List Pixel) : (l.flatMap Pixel.bytes).length = 4 * l.length := by
  induction l with
  | nil => rfl
  | cons p l ih => simp [Pixel.bytes, ih]; omega

theorem flatMap_bytes_getElem? (l : List Pixel) (i j : Nat) (hi : i < l.length) (hj : j < 4) :
    (l.flatMap Pixel.bytes)[4 * i + j]? = l[i].bytes[j]? := by
  induction l generalizing i with
  | nil => simp at hi
  | cons p l ih =>
    cases i with
    | zero =>
      simp only [List.flatMap_cons, Nat.mul_zero, Nat.zero_add, List.getElem_cons_zero]
      rw [List.getElem?_append_left (by simpa [Pixel.bytes] using hj)]
    | succ i =>
      simp only [List.flatMap_cons, List.getElem_cons_succ]
      rw [List.getElem?_append_right (by simp [Pixel.bytes]; omega)]
      simp only [Pixel.bytes, List.length_cons, List.length_nil]
      rw [show 4 * (i + 1) + j - (0 + 1 + 1 + 1 + 1) = 4 * i + j by omega]
      exact ih i (by simpa using hi)

@[simp] theorem Image.bytes_length (img : Image) : img.bytes.length = 4 * (img.W * img.H) := by
  rw [Image.bytes, flatMap_bytes_length, Image.toList_length]

theorem Image.bytes_getElem? (img : Image) (i j : Nat) (hi : i < img.W * img.H) (hj : j < 4) :
    img.bytes[4 * i + j]? = (img.px i).bytes[j]? := by
  unfold Image.bytes
  rw [flatMap_bytes_getElem? _ i j (by simpa using hi) hj]
  simp [Image.toList]

/-- The frame RAM's bytes after `write_frame`: the image's, then the old ones. -/
theorem State.frameByte_writeFrame (s : State) (img : Image) (k : Nat) :
    (s.writeFrame img).frameByte k
      = if k < 4 * (img.W * img.H) then img.bytes.getD k 0#8 else s.frameByte k := by
  unfold State.frameByte
  rw [State.writeFrame_frame, State.writeFrame_powerOnEpoch, Memory.get?_write]
  by_cases h : k < 4 * (img.W * img.H)
  · rw [if_pos ⟨Nat.zero_le _, by simpa using h⟩, if_pos h]
    have hl : k < img.bytes.length := by simpa using h
    simp [List.getElem?_eq_getElem hl]
  · rw [if_neg (by simpa using h), if_neg h]

/-- The entries `write_frame` writes. -/
theorem State.framePixel_writeFrame (s : State) (img : Image) (i : Nat) (hi : i < img.W * img.H) :
    (s.writeFrame img).framePixel i = img.px i := by
  have h : ∀ j, j < 4 → (s.writeFrame img).frameByte (4 * i + j) = (img.px i).bytes.getD j 0#8 := by
    intro j hj
    rw [State.frameByte_writeFrame, if_pos (by omega), List.getD_eq_getElem?_getD, Image.bytes_getElem? img i j hi hj,
      List.getD_eq_getElem?_getD]
  unfold State.framePixel
  rw [show 4 * i = 4 * i + 0 from rfl, h 0 (by decide), h 1 (by decide), h 2 (by decide), h 3 (by decide)]
  rfl

/-- The entries `write_frame` leaves alone. -/
theorem State.framePixel_writeFrame_outside (s : State) (img : Image) (i : Nat) (hi : img.W * img.H ≤ i) :
    (s.writeFrame img).framePixel i = s.framePixel i := by
  have h : ∀ k, 4 * (img.W * img.H) ≤ k → (s.writeFrame img).frameByte k = s.frameByte k := by
    intro k hk
    rw [State.frameByte_writeFrame, if_neg (by omega)]
  unfold State.framePixel
  rw [h _ (by omega), h _ (by omega), h _ (by omega), h _ (by omega)]

/-! ### Views that a completion's bookkeeping leaves alone -/

@[simp] theorem State.completeOk_frameByte (s : State) (k : Nat) : s.completeOk.frameByte k = s.frameByte k := rfl

@[simp] theorem State.completeOk_framePixel (s : State) (i : Nat) : s.completeOk.framePixel i = s.framePixel i := rfl

@[simp] theorem State.completeOk_outputByte (s : State) (k : Nat) : s.completeOk.outputByte k = s.outputByte k := rfl

@[simp] theorem State.completeOk_paletteByte (s : State) (k : Nat) : s.completeOk.paletteByte k = s.paletteByte k := rfl

@[simp] theorem State.storeResult_frameByte (s : State) (img : Image) (e : Encoded) (k : Nat) :
    (s.storeResult img e).frameByte k = s.frameByte k := rfl

@[simp] theorem State.writeFrame_outputByte (s : State) (img : Image) (k : Nat) :
    (s.writeFrame img).outputByte k = s.outputByte k := rfl

@[simp] theorem State.frameImage_W (s : State) : s.frameImage.W = s.frameW.toNat := rfl

@[simp] theorem State.frameImage_H (s : State) : s.frameImage.H = s.frameH.toNat := rfl

@[simp] theorem State.frameImage_px (s : State) (i : Nat) : s.frameImage.px i = s.framePixel i := rfl

/-- Two images with the same dimensions and pixels have the same raster list. -/
theorem Image.toList_ext {a b : Image} (hW : a.W = b.W) (hH : a.H = b.H)
    (h : ∀ x y, x < a.W → y < a.H → a.pixel x y = b.pixel x y) : a.toList = b.toList := by
  unfold Image.toList
  rw [hW, hH]
  apply List.map_congr_left
  intro i hi
  simp at hi
  have h1 := col_lt hi
  have h2 := row_lt hi
  rw [← hW] at h1
  have := h (i % a.W) (i / a.W) h1 (by rw [hH, hW]; exact h2)
  simpa [Image.pixel, row_major_self, hW] using this

end Sys2Proof.Machine
end

