-- ==== Sys2Proof/Laws/Lifecycle.lean ====
section
/-! SUPPORT. What each shared operation of the lifecycle can do, said once: reading the frame, completing, running a
stage command, running an encode, and the next event. -/

namespace Sys2Proof.Machine

theorem State.frameValid_iff (s : State) : s.frameValid = true ↔ s.FrameReadable := by
  unfold State.frameValid State.FrameReadable
  simp only [Bool.and_eq_true, decide_eq_true_eq, ne_eq]
  omega

/-- `frame()` on a valid frame. -/
theorem State.readFrame_ok (s : State) (h : s.FrameReadable) : s.readFrame = .ok s.frameImage := by
  unfold State.readFrame
  rw [if_pos (s.frameValid_iff.mpr h)]

/-- `frame()` on an invalid frame. -/
theorem State.readFrame_error (s : State) (h : ¬ s.FrameReadable) : s.readFrame = .error .invalidDimension := by
  unfold State.readFrame
  rw [if_neg (fun hv => h (s.frameValid_iff.mp hv))]

/-- A failed completion is the state with the error's STATUS and an empty PENDING. -/
theorem State.completeError_eq (s : State) (e : CmdError) : s.completeError e = s.afterError (errorCode e) := rfl

/-- Everything a stage command can do: it fails on the frame, fails in its operation, or writes the result. -/
theorem State.runStage_cases (s : State) (op : Image → Except CmdError Image) :
    (¬ s.FrameReadable ∧ s.runStage op = s.completeError .invalidDimension)
      ∨ (s.FrameReadable ∧ ∃ e, op s.frameImage = .error e ∧ s.runStage op = s.completeError e)
      ∨ (s.FrameReadable ∧ ∃ img, op s.frameImage = .ok img ∧ s.runStage op = (s.writeFrame img).completeOk) := by
  by_cases h : s.FrameReadable
  · right
    cases ho : op s.frameImage with
    | error e =>
      left
      exact ⟨h, e, rfl, by
        simp [State.runStage, s.readFrame_ok h, ho, State.complete, bind, Except.bind]⟩
    | ok img =>
      right
      exact ⟨h, img, rfl, by
        simp [State.runStage, s.readFrame_ok h, ho, State.complete, bind, Except.bind, pure, Except.pure]⟩
  · left
    exact ⟨h, by simp [State.runStage, s.readFrame_error h, State.complete, bind, Except.bind]⟩

theorem State.runStage_ok (s : State) (op : Image → Except CmdError Image) (h : s.FrameReadable) {img : Image}
    (ho : op s.frameImage = .ok img) : s.runStage op = (s.writeFrame img).completeOk := by
  simp [State.runStage, s.readFrame_ok h, ho, State.complete, bind, Except.bind, pure, Except.pure]

/-- Everything ENCODE and CONVERT can do, in the order of the checks (60_exceptions R234). -/
theorem State.runEncode_cases (s : State) (op : Image → Except CmdError Image) :
    (formatOfCode s.cfg.format.fmt = none ∧ s.runEncode op = s.completeError .unsupportedFormat)
      ∨ ∃ f, formatOfCode s.cfg.format.fmt = some f ∧
        ((¬ s.FrameReadable ∧ s.runEncode op = s.completeError .invalidDimension)
          ∨ (s.FrameReadable ∧ ∃ e, op s.frameImage = .error e ∧ s.runEncode op = s.completeError e)
          ∨ (s.FrameReadable ∧ ∃ img, op s.frameImage = .ok img ∧
              ((∃ e, frameOut s.params f s.cfg s.paletteEntry img = .error e ∧ s.runEncode op = s.completeError e)
                ∨ ∃ enc, frameOut s.params f s.cfg s.paletteEntry img = .ok enc
                    ∧ s.runEncode op = (s.storeResult img enc).completeOk))) := by
  cases hf : formatOfCode s.cfg.format.fmt with
  | none =>
    left
    exact ⟨rfl, by simp [State.runEncode, State.readFormat, hf, State.complete, bind, Except.bind]⟩
  | some f =>
    right
    refine ⟨f, rfl, ?_⟩
    by_cases h : s.FrameReadable
    · right
      cases ho : op s.frameImage with
      | error e =>
        left
        exact ⟨h, e, rfl, by
          simp [State.runEncode, State.readFormat, hf, s.readFrame_ok h, ho, State.complete, bind, Except.bind]⟩
      | ok img =>
        right
        refine ⟨h, img, rfl, ?_⟩
        cases he : frameOut s.params f s.cfg s.paletteEntry img with
        | error e =>
          left
          exact ⟨e, rfl, by
            simp [State.runEncode, State.readFormat, hf, s.readFrame_ok h, ho, State.encodeImage, he, State.complete,
              bind, Except.bind]⟩
        | ok enc =>
          right
          exact ⟨enc, rfl, by
            simp [State.runEncode, State.readFormat, hf, s.readFrame_ok h, ho, State.encodeImage, he, State.complete,
              bind, Except.bind, pure, Except.pure]⟩
    · left
      exact ⟨h, by
        simp [State.runEncode, State.readFormat, hf, s.readFrame_error h, State.complete, bind, Except.bind]⟩

/-- `frame_out` either raises the payload's error or gives the three parts. -/
theorem frameOut_eq (p : Params) (f : Format) (c : ConfigRegs) (ram : Nat → List Byte) (img : Image) :
    frameOut p f c ram img
      = (effectiveMode p f c).map (fun mode =>
          ⟨headerBytes f c img.W img.H, palettePart f c ram, pack f c (scanSeq mode img)⟩) := by
  unfold frameOut payload
  cases effectiveMode p f c <;> rfl

/-- No command faults or is refused: exec always answers a next state. -/
theorem exec_next (i : Instr) (s : State) : ∃ t, exec i s = .next t := by
  cases i <;> exact ⟨_, rfl⟩

/-- A completion always answers a next state. -/
theorem State.engineEvent_next (s : State) (w : Word) : ∃ t, s.engineEvent w = .next t := by
  unfold State.engineEvent
  split
  · exact exec_next _ s
  · exact ⟨_, rfl⟩

/-- Everything a step can do: idle, complete the pending word, or perform the first event of the environment. -/
theorem step_cases (s : State) :
    (s.hostQueue = [] ∧ (s.inReset = true ∨ s.pending = none) ∧ step s = .next s)
      ∨ (∃ w, s.inReset = false ∧ s.pending = some w ∧ (s.hostQueue = [] ∨ s.delayLeft = 0)
          ∧ step s = s.engineEvent w)
      ∨ (∃ e rest, s.hostQueue = e :: rest ∧ (s.inReset = true ∨ s.pending = none ∨ s.delayLeft ≠ 0)
          ∧ step s = s.hostEvent e rest) := by
  unfold step State.nextEvent
  cases hr : s.inReset <;> cases hp : s.pending <;> cases hq : s.hostQueue <;> simp
  by_cases hd : s.delayLeft = 0 <;> simp [hd]

/-- A due completion is the next event. -/
theorem step_due {s : State} {w : Word} (hr : s.inReset = false) (hp : s.pending = some w)
    (hq : s.hostQueue = [] ∨ s.delayLeft = 0) : step s = s.engineEvent w := by
  unfold step State.nextEvent
  cases hq' : s.hostQueue with
  | nil => simp [hr, hp]
  | cons e rest =>
    have h0 : s.delayLeft = 0 := hq.resolve_left (by simp [hq'])
    simp [hr, hp, h0]

/-- An event of the environment is next while no completion is due. -/
theorem step_host {s : State} {e : HostEvent} {rest : List HostEvent} (hq : s.hostQueue = e :: rest)
    (h : s.inReset = true ∨ s.pending = none ∨ s.delayLeft ≠ 0) : step s = s.hostEvent e rest := by
  unfold step State.nextEvent
  rw [hq]
  cases hr : s.inReset <;> cases hp : s.pending <;> simp_all

/-- A run's first step. -/
theorem run_succ {k : Nat} {s t : State} (h : step s = .next t) :
    Host.Core.run Sys2Proof.core (k + 1) s = Host.Core.run Sys2Proof.core k t := by
  have h' : Sys2Proof.core.step s = .next t := h
  simp only [Host.Core.run, h']

/-- The address of an aligned offset of the window is an access the block performs. -/
theorem accessOffset_hostAddress (p : Params) (off : Nat) (h1 : off < 16777216) (h2 : off % 4 = 0) :
    accessOffset p (hostAddress p off) 4 = .ok off := by
  unfold accessOffset hostAddress windowBytes
  rw [if_neg (by omega), if_neg (by simp; omega)]
  simp

/-- A completion empties PENDING and leaves the environment alone. -/
theorem State.engineEvent_frame (s : State) (w : Word) :
    ∃ t, s.engineEvent w = .next t ∧ t.pending = none ∧ SameEnvironment s t := by
  have hst : ∀ op, (s.runStage op).pending = none ∧ SameEnvironment s (s.runStage op) := by
    intro op
    rcases s.runStage_cases op with ⟨_, hc⟩ | ⟨_, e, _, hc⟩ | ⟨_, img, _, hc⟩ <;> simp [hc, SameEnvironment]
  have hen : ∀ op, (s.runEncode op).pending = none ∧ SameEnvironment s (s.runEncode op) := by
    intro op
    rcases s.runEncode_cases op with
      ⟨_, hc⟩ | ⟨f, _, ⟨_, hc⟩ | ⟨_, e, _, hc⟩ | ⟨_, img, _, ⟨e, _, hc⟩ | ⟨enc, _, hc⟩⟩⟩ <;>
        simp [hc, SameEnvironment]
  unfold State.engineEvent
  split
  · rename_i i _
    cases i
    case nop => exact ⟨_, rfl, by simp [SameEnvironment]⟩
    case sreset => exact ⟨_, rfl, by simp [SameEnvironment]⟩
    case encode => exact ⟨_, rfl, hen _⟩
    case convert => exact ⟨_, rfl, hen _⟩
    all_goals exact ⟨_, rfl, hst _⟩
  · exact ⟨_, rfl, by simp [SameEnvironment]⟩

end Sys2Proof.Machine
end

