-- ==== Sys2Proof/Laws/Pack.lean ====
section
/-! SUPPORT. The lengths of payloads, headers and palettes, the packer one pixel at a time, and what framing an image
gives. -/

namespace Sys2Proof.Machine

@[simp] theorem scanSeq_length (mode : ScanMode) (img : Image) : (scanSeq mode img).length = img.W * img.H := by
  simp [scanSeq]

theorem packSub_length (codes : List Nat) (b : Nat) (bo : BitOrder) (hb : b = 1 ∨ b = 2 ∨ b = 4) :
    (packSub codes b bo).length = (codes.length * b + 7) / 8 := by
  rcases hb with rfl | rfl | rfl <;> simp [packSub, ceilDiv] <;> omega

theorem pack12_length (codes : List (BitVec 12)) : (pack12 codes).length = (codes.length * 12 + 7) / 8 := by
  induction codes using pack12.induct with
  | case1 => rfl
  | case2 c => simp [pack12]
  | case3 c0 c1 rest ih => simp [pack12, ih]; omega

theorem packBytes_length (group : Pixel → List Byte) (bo : ByteOrder) (seq : List Pixel) (n : Nat)
    (h : ∀ p, (group p).length = n) : (packBytes group bo seq).length = seq.length * n := by
  induction seq with
  | nil => simp [packBytes]
  | cons p seq ih =>
    have hb : (byteOrderGroup bo (group p)).length = n := by cases bo <;> simp [byteOrderGroup, h]
    simp only [packBytes, List.flatMap_cons, List.length_append, List.length_cons] at ih ⊢
    rw [ih, hb]; ring

/-- One pixel's bytes (41_quantize_pack R156, 42_scan_order R178). -/
theorem packBytes_singleton (group : Pixel → List Byte) (bo : ByteOrder) (p : Pixel) :
    packBytes group bo [p] = if bo = .lsb then (group p).reverse else group p := by
  cases bo <;> simp [packBytes, byteOrderGroup]

/-- A byte-aligned payload is the pixels' bytes one after another (41_quantize_pack R156). -/
theorem packBytes_eq_flatMap (group : Pixel → List Byte) (bo : ByteOrder) (seq : List Pixel) :
    packBytes group bo seq = seq.flatMap (fun p => packBytes group bo [p]) := by
  simp [packBytes]

/-- The 12-bit code as arithmetic on the channels (41_quantize_pack R147). -/
theorem code12_toNat (p : Pixel) :
    (code12 p).toNat = p.r.toNat / 16 * 256 + p.g.toNat / 16 * 16 + p.b.toNat / 16 := by
  have := p.r.isLt; have := p.g.isLt; have := p.b.isLt
  unfold code12
  simp only [toNat_append_eq, BitVec.extractLsb'_toNat, Nat.shiftRight_eq_div_pow]
  omega

/-- The RGB565 and RGB555 words as arithmetic on the channels (41_quantize_pack R150). -/
theorem word16_toNat (v16 : Bool) (p : Pixel) :
    (word16 v16 p).toNat = if v16 then p.r.toNat / 8 * 1024 + p.g.toNat / 8 * 32 + p.b.toNat / 8
      else p.r.toNat / 8 * 2048 + p.g.toNat / 4 * 32 + p.b.toNat / 8 := by
  have := p.r.isLt; have := p.g.isLt; have := p.b.isLt
  unfold word16
  cases v16 <;> simp only [Bool.false_eq_true, if_false, if_true, toNat_append_eq, BitVec.extractLsb'_toNat,
    Nat.shiftRight_eq_div_pow] <;> simp <;> omega

@[simp] theorem ordered_length (o : RgbOrder) (p : Pixel) : (ordered o p).length = 3 := by cases o <;> rfl

/-- The length of a packed sequence (41_quantize_pack R163). -/
theorem pack_length (f : Format) (c : ConfigRegs) (seq : List Pixel) :
    (pack f c seq).length = payloadLength f c.format.l12 seq.length := by
  cases f
  case mono => simp [pack, packSub_length, payloadLength, groupBytes, bitsPerPixel, ceilDiv]
  case gray4 => simp [pack, packSub_length, payloadLength, groupBytes, bitsPerPixel, ceilDiv]
  case gray16 => simp [pack, packSub_length, payloadLength, groupBytes, bitsPerPixel, ceilDiv]
  case color4096 =>
    cases hl : c.format.l12 with
    | false => simp [pack, hl, pack12_length, payloadLength, groupBytes, bitsPerPixel, ceilDiv]
    | true =>
      simp only [pack, hl, if_true, payloadLength, groupBytes]
      exact packBytes_length _ _ _ _ (fun _ => rfl)
  all_goals
    simp only [pack, payloadLength, groupBytes]
    exact packBytes_length _ _ _ _ (fun p => by first | rfl | simp [groupColor24, groupColor32])

theorem payloadLength_le (f : Format) (l12 : Bool) (n : Nat) : payloadLength f l12 n ≤ 4 * n := by
  cases f <;> cases l12 <;> simp [payloadLength, groupBytes, bitsPerPixel, ceilDiv] <;> omega

theorem payloadLength_pos (f : Format) (l12 : Bool) (n : Nat) (h : 1 ≤ n) : 1 ≤ payloadLength f l12 n := by
  cases f <;> cases l12 <;> simp [payloadLength, groupBytes, bitsPerPixel, ceilDiv] <;> omega

/-- A payload is the pack of the pixels in the effective scan order. -/
theorem payload_ok {p : Params} {f : Format} {c : ConfigRegs} {img : Image} {pay : List Byte}
    (h : payload p f c img = .ok pay) :
    ∃ mode, effectiveMode p f c = .ok mode ∧ pay = pack f c (scanSeq mode img) := by
  unfold payload at h
  cases hm : effectiveMode p f c with
  | error e => simp [hm, bind, Except.bind] at h
  | ok mode => exact ⟨mode, rfl, by simpa [hm, bind, Except.bind, pure, Except.pure, eq_comm] using h⟩

theorem payload_length {p : Params} {f : Format} {c : ConfigRegs} {img : Image} {pay : List Byte}
    (h : payload p f c img = .ok pay) : pay.length = payloadLength f c.format.l12 (img.W * img.H) := by
  obtain ⟨mode, _, rfl⟩ := payload_ok h
  rw [pack_length, scanSeq_length]

theorem header_length (f : Format) (c : ConfigRegs) (W H : Nat) :
    (header f c W H).length = if isGrayClass f then 6 else 8 := by
  unfold header
  split <;> simp [headColor, headGray]

theorem headerBytes_length (f : Format) (c : ConfigRegs) (W H : Nat) :
    (headerBytes f c W H).length = if c.hdrCtrl.hdrEn then (if isGrayClass f then 6 else 8) else 0 := by
  unfold headerBytes
  split <;> simp [header_length]

theorem flatMap_length_const {α β : Type} (l : List α) (g : α → List β) (n : Nat) (h : ∀ a ∈ l, (g a).length = n) :
    (l.flatMap g).length = l.length * n := by
  induction l with
  | nil => simp
  | cons a l ih =>
    simp only [List.flatMap_cons, List.length_append, List.length_cons]
    rw [h a (by simp), ih (fun b hb => h b (by simp [hb]))]; ring

theorem paletteColor_length (c : ConfigRegs) (s : State) (e : Nat) : (paletteColor c s.paletteEntry e).length = 3 := by
  unfold paletteColor
  cases c.hdrCtrl.palSrc <;> rfl

theorem paletteTable_length (c : ConfigRegs) (s : State) :
    (paletteTable c s.paletteEntry).length = 2 + 3 * paletteCount c := by
  unfold paletteTable
  rw [List.length_append, flatMap_length_const _ _ 3 (fun e _ => paletteColor_length c s e)]
  simp; omega

theorem paletteCount_le (c : ConfigRegs) (h : c.palCount.toNat ≤ 256) : paletteCount c ≤ 256 := by
  unfold paletteCount
  cases c.hdrCtrl.palSrc <;> simp [h]

theorem palettePart_length_le (f : Format) (c : ConfigRegs) (s : State) (h : c.palCount.toNat ≤ 256) :
    (palettePart f c s.paletteEntry).length ≤ 770 := by
  unfold palettePart
  split
  · rw [paletteTable_length]; have := paletteCount_le c h; omega
  · simp

/-- `frame_out` gives its three parts (43_header_framer R190, R202, R203). -/
theorem frameOut_ok {p : Params} {f : Format} {c : ConfigRegs} {ram : Nat → List Byte} {img : Image} {e : Encoded}
    (h : frameOut p f c ram img = .ok e) :
    ∃ mode, effectiveMode p f c = .ok mode ∧
      e = ⟨headerBytes f c img.W img.H, palettePart f c ram, pack f c (scanSeq mode img)⟩ := by
  unfold frameOut at h
  cases hp : payload p f c img with
  | error e' => simp [hp, bind, Except.bind] at h
  | ok pay =>
    obtain ⟨mode, hm, rfl⟩ := payload_ok hp
    exact ⟨mode, hm, by simpa [hp, bind, Except.bind, pure, Except.pure, eq_comm] using h⟩

theorem Encoded.bytes_length (e : Encoded) : e.bytes.length = e.hdr.length + e.pal.length + e.pay.length := by
  simp [Encoded.bytes, Nat.add_assoc]

/-- The lengths of a framed output; the payload is never empty (43_header_framer R203, 41_quantize_pack R163). -/
theorem frameOut_lengths {p : Params} {f : Format} {c : ConfigRegs} {s : State} {img : Image} {e : Encoded}
    (hc : c.palCount.toNat ≤ 256) (h : frameOut p f c s.paletteEntry img = .ok e) :
    e.hdr.length ≤ 8 ∧ e.pal.length ≤ 770 ∧ e.pay.length = payloadLength f c.format.l12 (img.W * img.H) := by
  obtain ⟨mode, _, rfl⟩ := frameOut_ok h
  refine ⟨?_, palettePart_length_le f c s hc, by simp [pack_length]⟩
  show (headerBytes f c img.W img.H).length ≤ 8
  rw [headerBytes_length]
  split <;> [split; skip] <;> omega

/-- An element of a list of equal groups. -/
theorem flatMap_getElem?_group {α β : Type} (l : List α) (g : α → List β) (n : Nat) (hg : ∀ a, (g a).length = n)
    (i j : Nat) (a : α) (hi : l[i]? = some a) (hj : j < n) : (l.flatMap g)[i * n + j]? = (g a)[j]? := by
  induction l generalizing i with
  | nil => simp at hi
  | cons b l ih =>
    cases i with
    | zero =>
      simp at hi
      subst hi
      simp only [List.flatMap_cons, Nat.zero_mul, Nat.zero_add]
      rw [List.getElem?_append_left (by rw [hg]; exact hj)]
    | succ i =>
      simp only [List.flatMap_cons]
      rw [List.getElem?_append_right (by rw [hg, Nat.add_mul]; omega), hg,
        show (i + 1) * n + j - n = i * n + j by rw [Nat.add_mul]; omega]
      exact ih i (by simpa using hi)

/-- The pixel at a position of the scan order. -/
theorem scanSeq_getElem? (mode : ScanMode) (img : Image) (k : Nat) (h : k < img.W * img.H) :
    (scanSeq mode img)[k]?
      = some (img.pixel (scanOrder mode img.W img.H k).1 (scanOrder mode img.W img.H k).2) := by
  simp [scanSeq, h]

/-- The horizontal sequence is raster order (42_scan_order R171). -/
theorem scanSeq_horizontal (img : Image) : scanSeq .horizontal img = img.toList := by
  simp [scanSeq, scanOrder, Image.pixel, Image.toList, row_major_self]

/-- Where `applyByteOrder` takes each byte from (42_scan_order R177). -/
theorem applyByteOrder_lsb_getElem? (d : List Byte) (n i : Nat) (hn : 1 ≤ n) :
    (applyByteOrder d .lsb n)[i]? = d[if i / n * n + n ≤ d.length then i / n * n + (n - 1 - i % n) else i]? := by
  have hm := Nat.mod_lt i (show n > 0 by omega)
  have hq := row_major_self n i
  unfold applyByteOrder
  dsimp only
  rw [List.getElem?_map]
  by_cases hi : i < d.length
  · have hlt : (if i / n * n + n ≤ d.length then i / n * n + (n - 1 - i % n) else i) < d.length := by
      split <;> omega
    rw [List.getElem?_range hi, List.getElem?_eq_getElem hlt]
    simp [hlt]
  · rw [if_neg (by omega), List.getElem?_eq_none (by simpa using hi), List.getElem?_eq_none (by omega)]
    rfl

end Sys2Proof.Machine
end

