-- ==== Sys2Proof/Laws/PerInstr.lean ====
section
/-! SUPPORT. Statements made per command, about the command as syntax. Family Encoding: its word has a zero reserved
field and its own opcode below, and the host's view of the decoder reads it back (30_encoding R80 to R83). -/

namespace Sys2Proof.Laws.Encoding

/-- The word of a command is well formed, carries its opcode, and decodes to the command. -/
def Statement (i : Instr) : Prop :=
  i.wellFormed = true ∧ commandWordWellFormed (Sys2Proof.encode i) = true ∧ (Sys2Proof.encode i).extractLsb' 0 8 = opcode i
    ∧ decodeTableWord 32 (Sys2Proof.encode i).toNat = some i

theorem nop : Statement .nop := by unfold Statement; decide

theorem sreset : Statement .sreset := by unfold Statement; decide

theorem resize : Statement .resize := by unfold Statement; decide

theorem rotate : Statement .rotate := by unfold Statement; decide

theorem mirror : Statement .mirror := by unfold Statement; decide

theorem adjBright : Statement .adjBright := by unfold Statement; decide

theorem adjContrast : Statement .adjContrast := by unfold Statement; decide

theorem invert : Statement .invert := by unfold Statement; decide

theorem ditherFs : Statement .ditherFs := by unfold Statement; decide

theorem ditherBayer : Statement .ditherBayer := by unfold Statement; decide

theorem preprocess : Statement .preprocess := by unfold Statement; decide

theorem encode : Statement .encode := by unfold Statement; decide

theorem convert : Statement .convert := by unfold Statement; decide

end Sys2Proof.Laws.Encoding
end

