-- ==== Sys2Proof/Laws/Preprocess.lean ====
section
/-! SUPPORT. What the preprocessor's operations can do to an image's dimensions, and how they fail. -/

namespace Sys2Proof.Machine

/-- Half-up rounding of a quotient of naturals (00_scope R10). -/
theorem roundHalfUp_nat (n d : Nat) : (roundHalfUp n d).toNat = (2 * n + d) / (2 * d) := by
  unfold roundHalfUp floorDiv
  have : ((2 * (n : Int) + d) / (2 * d)) = (((2 * n + d) / (2 * d) : Nat) : Int) := by push_cast; rfl
  rw [this]; rfl

theorem resizeDims_eq (W H mw mh : Nat) :
    resizeDims W H mw mh
      = if W * mh ≥ H * mw then (mw, (2 * (H * mw) + W) / (2 * W)) else ((2 * (W * mh) + H) / (2 * H), mh) := by
  unfold resizeDims
  rw [roundHalfUp_nat, roundHalfUp_nat]

/-- A half-up quotient that is at most `k` exactly when the quotient is below `k + 1/2`. -/
theorem halfUp_le_of_le {n d k : Nat} (hd : 1 ≤ d) (h : n ≤ k * d) : (2 * n + d) / (2 * d) ≤ k := by
  rw [Nat.div_le_iff_le_mul_add_pred (by omega)]
  have : 2 * n ≤ 2 * d * k := by nlinarith
  omega

/-- The new dimensions stay within the maxima and never exceed the old ones (40_preprocess R104, R124). -/
theorem resizeDims_bounds {W H mw mh : Nat} (hW : 1 ≤ W) (hH : 1 ≤ H) (h : ¬ (W ≤ mw ∧ H ≤ mh)) :
    (resizeDims W H mw mh).1 ≤ mw ∧ (resizeDims W H mw mh).2 ≤ mh
      ∧ (resizeDims W H mw mh).1 ≤ W ∧ (resizeDims W H mw mh).2 ≤ H := by
  rw [resizeDims_eq]
  split
  · rename_i hb
    have hm : mw ≤ W := by
      by_contra hc
      push Not at hc
      have : mh < H := by by_contra h2; exact h ⟨by omega, by omega⟩
      nlinarith
    exact ⟨le_refl _, halfUp_le_of_le hW (by nlinarith), hm, halfUp_le_of_le hW (by nlinarith)⟩
  · rename_i hb
    push Not at hb
    have hm : mh ≤ H := by
      by_contra hc
      push Not at hc
      have : mw < W := by by_contra h2; exact h ⟨by omega, by omega⟩
      nlinarith
    exact ⟨halfUp_le_of_le hH (by nlinarith), le_refl _, halfUp_le_of_le hH (by nlinarith), hm⟩

/-- Everything RESIZE's operation can do (40_preprocess R103 to R105). -/
theorem resize_cases (img : Image) (mw mh : Nat) :
    ((img.W ≤ mw ∧ img.H ≤ mh) ∧ resize img mw mh = .ok img)
      ∨ (¬ (img.W ≤ mw ∧ img.H ≤ mh)
          ∧ ((resizeDims img.W img.H mw mh).1 = 0 ∨ (resizeDims img.W img.H mw mh).2 = 0)
          ∧ resize img mw mh = .error .invalidDimension)
      ∨ (¬ (img.W ≤ mw ∧ img.H ≤ mh)
          ∧ 1 ≤ (resizeDims img.W img.H mw mh).1 ∧ 1 ≤ (resizeDims img.W img.H mw mh).2
          ∧ resize img mw mh
            = .ok (resample img (resizeDims img.W img.H mw mh).1 (resizeDims img.W img.H mw mh).2)) := by
  unfold resize
  by_cases h : img.W ≤ mw ∧ img.H ≤ mh
  · left; exact ⟨h, by rw [if_pos h]⟩
  · right
    rw [if_neg h]
    by_cases h0 : (resizeDims img.W img.H mw mh).1 = 0 ∨ (resizeDims img.W img.H mw mh).2 = 0
    · left; exact ⟨h, h0, by simp [h0]⟩
    · right; exact ⟨h, by omega, by omega, by simp [h0]⟩

/-- A resize fails in one way only (60_exceptions R231 (b)). -/
theorem resize_error {img : Image} {mw mh : Nat} {e : CmdError} (h : resize img mw mh = .error e) :
    e = .invalidDimension := by
  rcases resize_cases img mw mh with ⟨_, hr⟩ | ⟨_, _, hr⟩ | ⟨_, _, _, hr⟩ <;> rw [hr] at h <;> cases h
  rfl

theorem resize_dims {img out : Image} {mw mh : Nat} (hW : 1 ≤ img.W) (hH : 1 ≤ img.H)
    (h : resize img mw mh = .ok out) :
    out.W ≤ mw ∧ out.H ≤ mh ∧ 1 ≤ out.W ∧ 1 ≤ out.H ∧ out.W ≤ img.W ∧ out.H ≤ img.H := by
  rcases resize_cases img mw mh with ⟨hb, hr⟩ | ⟨_, _, hr⟩ | ⟨hn, h1, h2, hr⟩ <;> rw [hr] at h <;> cases h
  · exact ⟨hb.1, hb.2, hW, hH, le_refl _, le_refl _⟩
  · obtain ⟨b1, b2, b3, b4⟩ := resizeDims_bounds hW hH hn
    exact ⟨b1, b2, h1, h2, b3, b4⟩

/-! ### Dimensions of the other operations -/

@[simp] theorem Image.mapRgb_W (img : Image) (f : Byte → Byte) : (img.mapRgb f).W = img.W := rfl

@[simp] theorem Image.mapRgb_H (img : Image) (f : Byte → Byte) : (img.mapRgb f).H = img.H := rfl

@[simp] theorem bright_W (img : Image) (b : Int) : (bright img b).W = img.W := rfl

@[simp] theorem bright_H (img : Image) (b : Int) : (bright img b).H = img.H := rfl

/-- A channel's total grows with each of its values (40_preprocess R124). -/
theorem Image.channelTotal_le {a b : Image} (channel : Pixel → Byte) (hW : a.W = b.W) (hH : a.H = b.H)
    (h : ∀ i, i < a.W * a.H → (channel (a.px i)).toNat ≤ (channel (b.px i)).toNat) :
    a.channelTotal channel ≤ b.channelTotal channel := by
  unfold Image.channelTotal Image.toList
  rw [← hW, ← hH, List.map_map, List.map_map]
  exact List.sum_le_sum (fun i hi => h i (List.mem_range.mp hi))

@[simp] theorem contrast_W (img : Image) (c : Int) : (contrast img c).W = img.W := rfl

@[simp] theorem contrast_H (img : Image) (c : Int) : (contrast img c).H = img.H := rfl

@[simp] theorem invert_W (img : Image) : (invert img).W = img.W := rfl

@[simp] theorem invert_H (img : Image) : (invert img).H = img.H := rfl

@[simp] theorem mirror_W (img : Image) (h v : Bool) : (mirror img h v).W = img.W := rfl

@[simp] theorem mirror_H (img : Image) (h v : Bool) : (mirror img h v).H = img.H := rfl

@[simp] theorem ditherFs_W (img : Image) : (ditherFs img).W = img.W := rfl

@[simp] theorem ditherFs_H (img : Image) : (ditherFs img).H = img.H := rfl

@[simp] theorem ditherBayer_W (img : Image) : (ditherBayer img).W = img.W := rfl

@[simp] theorem ditherBayer_H (img : Image) : (ditherBayer img).H = img.H := rfl

/-- A rotation keeps the dimensions or swaps them (40_preprocess R107). -/
theorem rotate_dims (img : Image) (k : BitVec 2) :
    ((rotate img k).W = img.W ∧ (rotate img k).H = img.H) ∨ ((rotate img k).W = img.H ∧ (rotate img k).H = img.W) := by
  unfold rotate
  split <;> [skip; split <;> [skip; split]] <;> simp

@[simp] theorem preTonal_W (c : ConfigRegs) (img : Image) : (preTonal c img).W = img.W := by
  unfold preTonal
  dsimp only
  split <;> split <;> split <;> rfl

@[simp] theorem preTonal_H (c : ConfigRegs) (img : Image) : (preTonal c img).H = img.H := by
  unfold preTonal
  dsimp only
  split <;> split <;> split <;> rfl

@[simp] theorem preDither_W (c : ConfigRegs) (img : Image) : (preDither c img).W = img.W := by
  unfold preDither
  split <;> [split; skip] <;> rfl

@[simp] theorem preDither_H (c : ConfigRegs) (img : Image) : (preDither c img).H = img.H := by
  unfold preDither
  split <;> [split; skip] <;> rfl

/-- The image after the optional resize, and what follows it (40_preprocess R122). -/
theorem preprocess_eq (c : ConfigRegs) (img : Image) :
    preprocess c img = (preResize c img).map (fun i =>
      preDither c (preTonal c (mirror (rotate i c.preCtrl.rot) c.preCtrl.mirrorH c.preCtrl.mirrorV))) := by
  unfold preprocess
  cases preResize c img <;> rfl

theorem preResize_dims {c : ConfigRegs} {img out : Image} (hW : 1 ≤ img.W) (hH : 1 ≤ img.H)
    (h : preResize c img = .ok out) : 1 ≤ out.W ∧ 1 ≤ out.H ∧ out.W ≤ img.W ∧ out.H ≤ img.H := by
  unfold preResize at h
  split at h
  · have := resize_dims hW hH h; omega
  · cases h; omega

/-- Preprocessing never enlarges an image; its dimensions stay within 16 bits (40_preprocess R122, R124). -/
theorem preprocess_dims {c : ConfigRegs} {img out : Image} (hW : 1 ≤ img.W) (hH : 1 ≤ img.H)
    (h : preprocess c img = .ok out) :
    1 ≤ out.W ∧ 1 ≤ out.H ∧ out.W * out.H ≤ img.W * img.H ∧ out.W ≤ max img.W img.H ∧ out.H ≤ max img.W img.H := by
  rw [preprocess_eq] at h
  cases hr : preResize c img with
  | error e => simp [hr, Except.map] at h
  | ok i =>
    rw [hr] at h
    cases h
    obtain ⟨h1, h2, h3, h4⟩ := preResize_dims hW hH hr
    have hm := Nat.mul_le_mul h3 h4
    simp only [preDither_W, preDither_H, preTonal_W, preTonal_H, mirror_W, mirror_H]
    rcases rotate_dims i c.preCtrl.rot with ⟨hw, hh⟩ | ⟨hw, hh⟩ <;> rw [hw, hh]
    · exact ⟨h1, h2, hm, by omega, by omega⟩
    · exact ⟨h2, h1, by rw [Nat.mul_comm]; exact hm, by omega, by omega⟩

/-- Preprocessing fails in one way only (60_exceptions R231 (b)). -/
theorem preprocess_error {c : ConfigRegs} {img : Image} {e : CmdError} (h : preprocess c img = .error e) :
    e = .invalidDimension := by
  rw [preprocess_eq] at h
  cases hr : preResize c img with
  | ok i => simp [hr, Except.map] at h
  | error e' =>
    simp only [hr, Except.map, Except.error.injEq] at h
    subst h
    unfold preResize at hr
    split at hr
    · exact resize_error hr
    · cases hr

/-! ### Pixels of the geometric operations -/

/-- The pixels of a rotation (40_preprocess R107). -/
theorem rotate_pixel (img : Image) (k : BitVec 2) (x y : Nat) (hx : x < (rotate img k).W) :
    (rotate img k).pixel x y
      = if k = 0#2 then img.pixel x y else if k = 1#2 then img.pixel y (img.H - 1 - x)
        else if k = 2#2 then img.pixel (img.W - 1 - x) (img.H - 1 - y) else img.pixel (img.W - 1 - y) x := by
  unfold rotate at *
  split_ifs at * <;> first | rfl | rw [Image.tabulate_pixel _ (by simpa using hx)]

/-- The pixels of a mirror (40_preprocess R109). -/
theorem mirror_pixel (img : Image) (h v : Bool) (x y : Nat) (hx : x < img.W) :
    (mirror img h v).pixel x y
      = img.pixel (if h then img.W - 1 - x else x) (if v then img.H - 1 - y else y) := by
  unfold mirror
  rw [Image.tabulate_pixel _ hx]

end Sys2Proof.Machine
end

