-- ==== Sys2Proof/Tests/Slice0.lean ====
section
/-! SUPPORT. The author's tests: decoding of words written out from 30_encoding R82, the well-formedness smoke tests,
single steps against the vectors of 95_test_vectors.md, and a witness for the hypotheses of every obligation. -/

set_option maxRecDepth 20000

namespace Sys2Proof.Tests

open Sys2Proof Sys2Proof.Machine

/-! ### Decoding: the words of 30_encoding R82, OPC in bits 7:0 and RSVD 0 -/

theorem test_decode_nop : decode 0b00000000_00000000_00000000_00000000#32 = .ok .nop := by decide

theorem test_decode_sreset : decode 0b00000000_00000000_00000000_00000001#32 = .ok .sreset := by decide

theorem test_decode_resize : decode 0b00000000_00000000_00000000_00010000#32 = .ok .resize := by decide

theorem test_decode_rotate : decode 0b00000000_00000000_00000000_00010001#32 = .ok .rotate := by decide

theorem test_decode_mirror : decode 0b00000000_00000000_00000000_00010010#32 = .ok .mirror := by decide

theorem test_decode_adjBright : decode 0b00000000_00000000_00000000_00010011#32 = .ok .adjBright := by decide

theorem test_decode_adjContrast : decode 0b00000000_00000000_00000000_00010100#32 = .ok .adjContrast := by decide

theorem test_decode_invert : decode 0b00000000_00000000_00000000_00010101#32 = .ok .invert := by decide

theorem test_decode_ditherFs : decode 0b00000000_00000000_00000000_00010110#32 = .ok .ditherFs := by decide

theorem test_decode_ditherBayer : decode 0b00000000_00000000_00000000_00010111#32 = .ok .ditherBayer := by decide

theorem test_decode_preprocess : decode 0b00000000_00000000_00000000_00011000#32 = .ok .preprocess := by decide

theorem test_decode_encode : decode 0b00000000_00000000_00000000_00100000#32 = .ok .encode := by decide

theorem test_decode_convert : decode 0b00000000_00000000_00000000_00100001#32 = .ok .convert := by decide

/-- Each reserved bit alone is refused; opcodes between the assigned ones are refused. -/
theorem test_decode_refuses :
    (∀ k, 8 ≤ k → k < 32 → decode (BitVec.twoPow 32 k) = .error .reservedBitsSet)
      ∧ decode 0x00000002#32 = .error .unassignedOpcode ∧ decode 0x00000019#32 = .error .unassignedOpcode
      ∧ decode 0x00000022#32 = .error .unassignedOpcode ∧ decode 0xFFFFFFFF#32 = .error .reservedBitsSet := by
  refine ⟨?_, by decide⟩
  have h : ∀ k : Fin 32, 8 ≤ k.val → decode (BitVec.twoPow 32 k.val) = .error .reservedBitsSet := by decide
  exact fun k h1 h2 => h ⟨k, h2⟩ h1

theorem test_decodeTableWord : decodeTableWord 32 0x21 = some .convert ∧ decodeTableWord 32 0x121 = none := by decide

/-! ### Well-formedness: each check refuses an ill-formed term -/

theorem test_wellFormed_refuses_zero_pixels : Params.wellFormed ⟨0, .fault, 0⟩ = false := by decide

theorem test_wellFormed_refuses_too_many_pixels : Params.wellFormed ⟨1048577, .fault, 0⟩ = false := by decide

theorem test_wellFormed_refuses_unaligned_base : Params.wellFormed ⟨1, .fault, 0x100000⟩ = false := by decide

theorem test_wellFormed_refuses_reserved_bit : commandWordWellFormed 0x00000100#32 = false := by decide

theorem test_wellFormed_accepts :
    Params.wellFormed ⟨1, .passthrough, 0x2000000⟩ = true ∧ commandWordWellFormed 0x00000021#32 = true
      ∧ Instr.all.all Instr.wellFormed = true := by decide

/-! ### Small states -/

/-- A grey pixel. -/
def grey (v : Nat) : Pixel := ⟨BitVec.ofNat 8 v, BitVec.ofNat 8 v, BitVec.ofNat 8 v, 255#8⟩

/-- The state after reset with a frame of the given pixels. -/
def frameState (W H : Nat) (px : List Pixel) : State :=
  { State.reset with
    frameW := BitVec.ofNat 16 W
    frameH := BitVec.ofNat 16 H
    frame := Memory.block 0 (px.flatMap Pixel.bytes) }

/-- A configuration register stored, as an idle host write leaves it. -/
def setReg (s : State) (r : RegName) (w : Word) : State := s.storeReg r w

/-- The state after the step that completes a command; a fault leaves the state. -/
def complete (i : Instr) (s : State) : State :=
  match step (s.placeCommand (encode i)) with
  | .next t => t
  | .fault _ => s
  | .refused _ => s

/-- The red channels of the first `n` frame entries. -/
def reds (s : State) (n : Nat) : List Nat := (List.range n).map (fun i => (s.framePixel i).r.toNat)

/-- The first OUT_LEN output bytes. -/
def outBytes (s : State) : List Nat := (List.range s.result.outLen.toNat).map (fun k => (s.outputByte k).toNat)

/-! ### Single steps, with the results of 95_test_vectors.md -/

/-- V-ER-1. -/
theorem test_nop : (complete .nop State.reset).statusWord = 0x00000002#32 := by decide

/-- V-ER-10. -/
theorem test_sreset : (complete .sreset (setReg State.reset .format 0x6#32)).statusWord = 0x00000002#32
    ∧ (complete .sreset (setReg State.reset .format 0x6#32)).readReg .format = 0#32 := by decide

/-- V-RS-4: half rounds up. -/
theorem test_resize_half_up :
    reds (complete .resize (setReg (setReg (frameState 4 3 ((List.range 12).map grey)) .maxW 2#32) .maxH 2#32)) 4
      = [0, 2, 4, 6] := by decide

/-- V-RS-10: a dimension that rounds to 0. -/
theorem test_resize_error :
    (complete .resize (setReg (setReg (frameState 10 1 ((List.range 10).map grey)) .maxW 4#32) .maxH 4#32)).statusWord
      = 0x00000036#32 := by decide

/-- V-RO-1. -/
theorem test_rotate_cw :
    reds (complete .rotate (setReg (frameState 3 2 ([10, 20, 30, 40, 50, 60].map grey)) .preCtrl 0x2#32)) 6
      = [40, 10, 50, 20, 60, 30] := by decide

/-- V-RO-3. -/
theorem test_rotate_ccw :
    reds (complete .rotate (setReg (frameState 3 2 ([10, 20, 30, 40, 50, 60].map grey)) .preCtrl 0x6#32)) 6
      = [30, 60, 20, 50, 10, 40] := by decide

/-- V-MI-1. -/
theorem test_mirror_horizontal :
    reds (complete .mirror (setReg (frameState 3 2 ([10, 20, 30, 40, 50, 60].map grey)) .preCtrl 0x8#32)) 6
      = [30, 20, 10, 60, 50, 40] := by decide

/-- V-MI-2. -/
theorem test_mirror_vertical :
    reds (complete .mirror (setReg (frameState 3 2 ([10, 20, 30, 40, 50, 60].map grey)) .preCtrl 0x10#32)) 6
      = [40, 50, 60, 10, 20, 30] := by decide

/-- V-BR-2. -/
theorem test_bright_clamps :
    (complete .adjBright (setReg (frameState 2 1 [⟨250#8, 5#8, 128#8, 7#8⟩, ⟨0#8, 255#8, 100#8, 9#8⟩]) .brightness
      0xFFFFFFF6#32)).framePixel 0 = ⟨240#8, 0#8, 118#8, 7#8⟩ := by decide

/-- V-BR-6: the register clamps 300 to 255. -/
theorem test_bright_register_clamps :
    (complete .adjBright (setReg (frameState 2 1 [⟨250#8, 5#8, 128#8, 7#8⟩, ⟨0#8, 255#8, 100#8, 9#8⟩]) .brightness
      300#32)).framePixel 1 = ⟨255#8, 255#8, 255#8, 9#8⟩ := by decide

/-- V-CO-3. -/
theorem test_contrast_128 :
    reds (complete .adjContrast (setReg (frameState 5 1 ([0, 100, 127, 129, 200].map grey)) .contrast 128#32)) 5
      = [0, 45, 125, 131, 255] := by decide

/-- V-CO-8. -/
theorem test_contrast_negative :
    reds (complete .adjContrast (setReg (frameState 5 1 ([0, 64, 100, 200, 255].map grey)) .contrast 0xFFFFFF9C#32)) 5
      = [72, 100, 116, 160, 184] := by decide

/-- V-IN-1. -/
theorem test_invert :
    (complete .invert (frameState 1 1 [⟨0#8, 128#8, 255#8, 9#8⟩])).framePixel 0 = ⟨255#8, 127#8, 0#8, 9#8⟩ := by
  decide

/-- V-FS-1. -/
theorem test_ditherFs_levels :
    reds (complete .ditherFs (frameState 4 2 (List.replicate 8 (grey 100)))) 8 = [0, 255, 0, 0, 0, 255, 0, 255] := by
  decide

/-- V-FS-2: `old` is not clamped. -/
theorem test_ditherFs_negative :
    reds (complete .ditherFs (frameState 3 2 ([200, 60, 130, 0, 255, 127].map grey))) 6
      = [255, 0, 255, 0, 255, 0] := by decide

/-- V-BA-8. -/
theorem test_ditherBayer :
    reds (complete .ditherBayer (frameState 2 5 (List.replicate 10 (grey 128)))) 10
      = [255, 0, 0, 255, 255, 0, 0, 255, 255, 0] := by decide

/-- V-PP-1. -/
theorem test_preprocess :
    reds (complete .preprocess (setReg (frameState 2 1 [⟨10#8, 20#8, 30#8, 1#8⟩, ⟨200#8, 200#8, 200#8, 2#8⟩]) .preCtrl
      0x82#32)) 2 = [245, 55] := by decide

/-- P1. -/
theorem test_encode_rgb565 :
    outBytes (complete .encode (setReg (setReg (frameState 2 2 (List.replicate 4 ⟨255#8, 0#8, 0#8, 255#8⟩)) .format
      0x6#32) .hdrCtrl 0x1#32))
      = [0x00, 0x10, 0x02, 0x00, 0x02, 0x00, 0x01, 0x1B, 0xF8, 0x00, 0xF8, 0x00, 0xF8, 0x00, 0xF8, 0x00] := by decide

/-- V-ER-4: UnsupportedFormat wins over InvalidDimension. -/
theorem test_encode_unsupported :
    (complete .encode (setReg State.reset .format 0xC#32)).statusWord = 0x00000026#32 := by decide

/-- P2, the variant with rotation. -/
theorem test_convert_rotate_dither :
    outBytes (complete .convert (setReg (setReg (frameState 4 2 (List.replicate 8 (grey 100))) .preCtrl 0x102#32)
      .hdrCtrl 0x1#32)) = [0x00, 0x01, 0x02, 0x00, 0x04, 0x00, 0x49] := by decide

/-- V-ER-6: the resize's InvalidDimension wins over UnimplementedScan. -/
theorem test_convert_error_priority :
    (complete .convert (setReg (setReg (frameState 4 4 (List.replicate 16 (grey 0))) .preCtrl 0x1#32) .scan
      0x1#32)).statusWord = 0x00000036#32 := by decide

/-- V-ER-2: a reserved bit. -/
theorem test_illegal_word :
    step (State.reset.placeCommand 0x00000100#32) = .next (State.reset.afterError 1#4) := by rfl

/-! ### Witnesses: states and operands that meet the hypotheses of each obligation together -/

/-- A busy block with a host event waiting, three events before the completion. -/
def busyState : State :=
  { State.reset with pending := some 0x00000000#32, delayLeft := 3, hostQueue := [.wait, .read 0x08 4] }

theorem witness_StepRunsDecodedCommand :
    ({ busyState with delayLeft := 0 } : State).inReset = false
      ∧ ({ busyState with delayLeft := 0 } : State).pending = some 0x00000000#32
      ∧ ({ busyState with delayLeft := 0 } : State).delayLeft = 0 ∧ decode 0x00000000#32 = .ok .nop := by decide

theorem witness_IllegalWordsRaiseIllegalCommand :
    (State.reset.placeCommand 0x80000000#32).pending = some 0x80000000#32
      ∧ (State.reset.placeCommand 0x80000000#32).hostQueue = []
      ∧ (0x80000000#32).extractLsb' 8 24 ≠ 0#24
      ∧ (0x000000FF#32).extractLsb' 8 24 = 0#24 ∧ (∀ i : Instr, (0x000000FF#32).extractLsb' 0 8 ≠ opcode i)
      ∧ (0x00000021#32).extractLsb' 8 24 = 0#24 ∧ (0x00000021#32).extractLsb' 0 8 = opcode .convert := by
  refine ⟨by decide, by decide, by decide, by decide, ?_, by decide, by decide⟩
  intro i
  cases i <;> decide

theorem witness_CommandWriteIsAccepted :
    (∃ s : State, s.inReset = false ∧ s.pending = none
        ∧ s.hostQueue = .write (hostAddress s.params 0x04) 4 0x00000020#32 :: [.wait])
      ∧ ∃ s : State, s.inReset = false ∧ s.pending ≠ none ∧ s.delayLeft ≠ 0
        ∧ s.hostQueue = .write (hostAddress s.params 0x04) 4 0x00000020#32 :: [] :=
  ⟨⟨{ State.reset with hostQueue := [.write 0x04 4 0x00000020#32, .wait] }, by decide⟩,
    ⟨{ busyState with hostQueue := [.write 0x04 4 0x00000020#32] }, by decide⟩⟩

theorem witness_FailedCommandChangesOnlyStatus :
    ∃ t : State, State.reset.engineEvent 0x00000010#32 = .next t ∧ t.status.err = true :=
  ⟨State.reset.afterError 3#4, rfl, rfl⟩

theorem witness_AcceptedCommandCompletes :
    busyState.pending = some 0x00000000#32 ∧ busyState.inReset = false ∧ busyState.HostLegal
      ∧ busyState.hostQueue.all keepsReset = true := by decide

theorem witness_WaitLoopEnds :
    busyState.pending = some 0x00000000#32 ∧ busyState.inReset = false
      ∧ busyState.hostQueue = .wait :: [.read 0x08 4] := by decide

theorem witness_StepKeepsInvariant :
    (State.reset.placeCommand 0x00000001#32).Inv
      ∧ ∃ t : State, step (State.reset.placeCommand 0x00000001#32) = .next t := ⟨by decide, _, rfl⟩

theorem witness_LegalHostProgramNeverFaults :
    busyState.HostLegal ∧ ({ busyState with hostQueue := [.write 0xFFFFFC 4 0#32] } : State).HostLegal := by decide

/-- Each sticky bit set, and cleared by a write of 1, by SRESET, by the release of the reset input. -/
def stickyState : State := { State.reset with status := { Status.zero with cmdOvr := true, wrBusy := true } }

theorem witness_StickyBitsClearedOnlyAsStated :
    (∃ t : State, step { stickyState with hostQueue := [.write 0x08 4 0x100#32] } = .next t
        ∧ t.status.cmdOvr = false ∧ t.status.wrBusy = true)
      ∧ (∃ t : State, step { stickyState with hostQueue := [.write 0x08 4 0x200#32] } = .next t
        ∧ t.status.cmdOvr = true ∧ t.status.wrBusy = false)
      ∧ (∃ t : State, step (stickyState.placeCommand 0x00000001#32) = .next t
        ∧ t.status.cmdOvr = false ∧ t.status.wrBusy = false)
      ∧ (∃ t : State, step { stickyState with inReset := true, hostQueue := [.resetRelease] } = .next t
        ∧ t.status.cmdOvr = false ∧ t.status.wrBusy = false) :=
  ⟨⟨_, rfl, rfl, rfl⟩, ⟨_, rfl, rfl, rfl⟩, ⟨_, rfl, rfl, rfl⟩, ⟨_, rfl, rfl, rfl⟩⟩

/-- A 6 by 4 frame. -/
def frame64 : State := frameState 6 4 ((List.range 24).map grey)

/-- A frame that fits exactly (V-RS-1), one bound by its width (V-RS-2), equal ratios (V-RS-5's shape), one bound by its
height (V-RS-3's shape), and one whose dimension rounds to 0 (V-RS-13). -/
theorem witness_ResizeCommand :
    frame64.FrameReadable ∧ frame64.frameW.toNat = 6 ∧ frame64.frameH.toNat = 4
      ∧ (6 ≤ 6 ∧ 4 ≤ 4) ∧ (¬ (6 ≤ 3 ∧ 4 ≤ 3) ∧ 6 * 3 ≥ 4 * 3 ∧ (2 * (4 * 3) + 6) / (2 * 6) = 2)
      ∧ (¬ (6 ≤ 3 ∧ 4 ≤ 2) ∧ 6 * 2 ≥ 4 * 3 ∧ (2 * (4 * 3) + 6) / (2 * 6) = 2)
      ∧ (¬ (6 ≤ 5 ∧ 4 ≤ 2) ∧ 6 * 2 < 4 * 5 ∧ (2 * (6 * 2) + 4) / (2 * 4) = 3)
      ∧ (¬ (6 ≤ 0 ∧ 4 ≤ 5) ∧ 6 * 5 ≥ 4 * 0 ∧ (2 * (4 * 0) + 6) / (2 * 6) = 0) := by decide

theorem witness_ResizeStaysWithinBounds :
    ∃ out : Image, 1 ≤ frame64.frameImage.W ∧ 1 ≤ frame64.frameImage.H ∧ resize frame64.frameImage 3 3 = .ok out :=
  ⟨resample frame64.frameImage 3 2, by decide, by decide, rfl⟩

/-- RotateCommand, MirrorCommand, AdjustBrightnessCommand, InvertCommand, ErrorDiffusionCommand, OrderedDitherCommand:
a readable frame, for rotations 0 to 3 and at the largest and smallest dimensions of a readable frame. -/
theorem witness_FrameReadable :
    frame64.FrameReadable ∧ (∀ k : Fin 4, (setReg frame64 .preCtrl (BitVec.ofNat 32 (2 * k.val))).FrameReadable
      ∧ (setReg frame64 .preCtrl (BitVec.ofNat 32 (2 * k.val))).cfg.preCtrl.rot = BitVec.ofNat 2 k.val)
      ∧ (frameState 1 1 []).FrameReadable ∧ (frameState 65535 16 []).FrameReadable
      ∧ (frameState 1 65535 []).FrameReadable := by decide

theorem witness_AdjustContrastCommand :
    (setReg frame64 .contrast 255#32).FrameReadable ∧ (setReg frame64 .contrast 255#32).cfg.contrast.toInt = 255
      ∧ (setReg frame64 .contrast 0xFFFFFF01#32).cfg.contrast.toInt = -255 := by decide

/-- A trace entry, and an accumulator entry in the middle of the loop and at its end. -/
theorem witness_ErrorDiffusionValuesStayInRange :
    (∃ p : FsPixel, p ∈ fsTrace (frameState 1 1 [grey 127]).frameImage)
      ∧ (∃ e : Int, e ∈ (fsRun (frameState 2 1 [grey 127, grey 0]).frameImage 1).E ∧ e = 55)
      ∧ 2 ≤ (frameState 2 1 [grey 127, grey 0]).frameImage.W * (frameState 2 1 [grey 127, grey 0]).frameImage.H :=
  ⟨⟨⟨0, 127, 0, 127⟩, by decide⟩, ⟨55, by decide, rfl⟩, by decide⟩

theorem witness_DitherOutputIsBlackOrWhite :
    frame64.FrameReadable ∧ (∃ t : State, exec .ditherFs frame64 = .next t)
      ∧ ∃ t : State, exec .ditherBayer frame64 = .next t := ⟨by decide, ⟨_, rfl⟩, ⟨_, rfl⟩⟩

/-- All seven operations requested, on a mono frame that is resized, with either dither. -/
theorem witness_PreprocessCommand :
    (setReg (setReg (setReg frame64 .preCtrl 0x1FB#32) .maxW 3#32) .maxH 3#32).FrameReadable
      ∧ (setReg (setReg (setReg frame64 .preCtrl 0x1FB#32) .maxW 3#32) .maxH 3#32).cfg.preCtrl.resizeEn = true
      ∧ (setReg frame64 .preCtrl 0x1FB#32).cfg.preCtrl.dither = .errorDiffusion
      ∧ (setReg frame64 .preCtrl 0x2FA#32).cfg.preCtrl.dither = .ordered
      ∧ ∃ i1 : Image, resize frame64.frameImage 3 3 = .ok i1 :=
  ⟨by decide, by decide, by decide, by decide, _, rfl⟩

theorem witness_StageCommandsTrapOnInvalidDimensions :
    isStage .preprocess = true ∧ (frameState 0 4 []).frameW = 0#16 ∧ (frameState 4 0 []).frameH = 0#16
      ∧ (frameState 1025 1024 []).params.maxPixels < (frameState 1025 1024 []).frameW.toNat
          * (frameState 1025 1024 []).frameH.toNat
      ∧ (setReg frame64 .preCtrl 0x1#32).FrameReadable ∧ (setReg frame64 .preCtrl 0x1#32).cfg.preCtrl.resizeEn = true
      ∧ resize frame64.frameImage 0 0 = .error .invalidDimension :=
  ⟨rfl, rfl, rfl, by decide, by decide, rfl, rfl⟩

theorem witness_StageCommandFrame :
    isStage .rotate = true ∧ ∃ t : State, exec .rotate frame64 = .next t := ⟨rfl, _, rfl⟩

/-- RotationsCompose and MirrorAndInvertAreInvolutive. -/
theorem witness_image_dimensions : 1 ≤ frame64.frameImage.W ∧ 1 ≤ frame64.frameImage.H := by decide

theorem witness_TonalLaws :
    (-255 : Int) ≤ -255 ∧ (255 : Int) ≤ 255 ∧ (0 : Int) < 1 ∧ (-1 : Int) < 0 ∧ Pixel.r ∈ [Pixel.r, Pixel.g, Pixel.b]
      ∧ Pixel.b ∈ [Pixel.r, Pixel.g, Pixel.b] :=
  ⟨by decide, by decide, by decide, by decide, by simp, by simp⟩

/-- The measure of the brightness law on two pixels, counted by hand: 250 + 0, and 255 + 10 after an offset of 10. -/
theorem test_channelTotal :
    (frameState 2 1 [⟨250#8, 5#8, 128#8, 7#8⟩, ⟨0#8, 255#8, 100#8, 9#8⟩]).frameImage.channelTotal Pixel.r = 250
      ∧ (bright (frameState 2 1 [⟨250#8, 5#8, 128#8, 7#8⟩, ⟨0#8, 255#8, 100#8, 9#8⟩]).frameImage 10).channelTotal
          Pixel.r = 265 := by decide

/-- ENCODE: a byte-aligned format in vertical order, a packed one in horizontal order, and a packed one in vertical order
under PASSTHROUGH. -/
theorem witness_EncodeCommand :
    frame64.params.wellFormed = true ∧ frame64.FrameReadable
      ∧ formatOfCode (setReg frame64 .format 0x4#32).cfg.format.fmt = some .color256
      ∧ isPacked .color256 false = false ∧ formatOfCode frame64.cfg.format.fmt = some .mono
      ∧ isPacked .mono frame64.cfg.format.l12 = true ∧ frame64.cfg.scan.mode = .horizontal
      ∧ (setReg { frame64 with params := ⟨1048576, .passthrough, 0⟩ } .scan 1#32).cfg.scan.mode ≠ .horizontal
      ∧ ({ frame64 with params := ⟨1048576, .passthrough, 0⟩ } : State).params.subbyteScan = .passthrough
      ∧ ({ frame64 with params := ⟨1048576, .passthrough, 0⟩ } : State).params.wellFormed = true := by decide

theorem witness_ConvertCommand :
    (setReg (setReg frame64 .preCtrl 0x82#32) .format 0x9#32).params.wellFormed = true
      ∧ (setReg (setReg frame64 .preCtrl 0x82#32) .format 0x9#32).FrameReadable
      ∧ formatOfCode (setReg (setReg frame64 .preCtrl 0x82#32) .format 0x9#32).cfg.format.fmt = some .color32bit
      ∧ isPacked .color32bit false = false
      ∧ ∃ img : Image, preprocess (setReg (setReg frame64 .preCtrl 0x82#32) .format 0x9#32).cfg frame64.frameImage
          = .ok img :=
  ⟨by decide, by decide, by decide, by decide, _, rfl⟩

theorem witness_ConvertWithoutRequestsIsEncode : frame64.cfg.preCtrl.toWord = 0#32 := by decide

theorem witness_EncodeErrorsFollowThePriority :
    10 ≤ (setReg State.reset .format 0xA#32).cfg.format.fmt.toNat
      ∧ 15 ≤ (setReg State.reset .format 0xF#32).cfg.format.fmt.toNat
      ∧ (setReg State.reset .format 0x9#32).cfg.format.fmt.toNat ≤ 9 ∧ State.reset.frameW = 0#16
      ∧ (setReg frame64 .preCtrl 0x1#32).FrameReadable ∧ (setReg frame64 .preCtrl 0x1#32).cfg.preCtrl.resizeEn = true
      ∧ resize frame64.frameImage 0 0 = .error .invalidDimension
      ∧ formatOfCode (setReg frame64 .format 0x5#32).cfg.format.fmt = some .color4096
      ∧ isPacked .color4096 (setReg frame64 .format 0x5#32).cfg.format.l12 = true
      ∧ (setReg frame64 .scan 0x3#32).cfg.scan.mode ≠ .horizontal ∧ frame64.params.subbyteScan = .fault
      ∧ ∃ img : Image, preprocess frame64.cfg frame64.frameImage = .ok img :=
  ⟨by decide, by decide, by decide, rfl, by decide, rfl, rfl, by decide, by decide, by decide, rfl, _, rfl⟩

theorem witness_EncodeConvertFrame :
    frame64.params.wellFormed = true ∧ (∃ t : State, exec .encode frame64 = .next t)
      ∧ ∃ t : State, exec .convert frame64 = .next t := ⟨by decide, ⟨_, rfl⟩, ⟨_, rfl⟩⟩

theorem witness_PayloadLengths :
    (∃ pay, payload frame64.params .gray4 frame64.cfg frame64.frameImage = .ok pay)
      ∧ (∃ pay, payload frame64.params .color4096 (setReg frame64 .format 0x405#32).cfg frame64.frameImage = .ok pay)
      ∧ (setReg frame64 .format 0x405#32).cfg.format.l12 = true
      ∧ ∃ pay, payload frame64.params .color4096 frame64.cfg frame64.frameImage = .ok pay :=
  ⟨⟨_, rfl⟩, ⟨_, rfl⟩, by decide, ⟨_, rfl⟩⟩

/-- LsbReversesEachPixelGroup and ScanMovesWholePixelGroups: formats with groups of 1, 2, 3 and 4 bytes, and packed
ones. -/
theorem witness_groupBytes :
    groupBytes .grayscale false = some 1 ∧ groupBytes .color4096 true = some 2 ∧ groupBytes .color18bit false = some 3
      ∧ groupBytes .color32bit true = some 4 ∧ isPacked .gray16 true = true ∧ isPacked .color4096 false = true
      ∧ 5 < frame64.frameImage.W ∧ 3 < frame64.frameImage.H := by decide

/-- ApplyByteOrderLaws: whole groups and a partial tail. -/
theorem witness_ApplyByteOrderLaws :
    1 ≤ 3 ∧ 1 * 3 + 3 ≤ [1#8, 2#8, 3#8, 4#8, 5#8, 6#8, 7#8].length ∧ 2 < 3
      ∧ [1#8, 2#8, 3#8, 4#8, 5#8, 6#8, 7#8].length / 3 * 3 ≤ 6 := by decide

theorem witness_ScanOrdersAreBijections :
    5 < 3 * 2 ∧ 2 < 3 ∧ 1 < 2 ∧ ScanMode.vertical ≠ .horizontalReverse ∧ 4 < 1 * 5 := by decide

theorem witness_SubOptionsOfOtherFormatsIgnored :
    Format.mono ≠ .color24bit ∧ Format.mono ≠ .color32bit ∧ Format.color32bit ≠ .color16bit
      ∧ Format.color16bit ≠ .color18bit ∧ Format.color18bit ≠ .color4096 := by decide

theorem witness_AlphaReachesOnlyColor32 :
    ∃ img' : Image, img'.W = frame64.frameImage.W ∧ img'.H = frame64.frameImage.H
      ∧ (∀ i, i < frame64.frameImage.W * frame64.frameImage.H → (img'.px i).r = (frame64.frameImage.px i).r
          ∧ (img'.px i).g = (frame64.frameImage.px i).g ∧ (img'.px i).b = (frame64.frameImage.px i).b)
      ∧ (img'.px 0).a ≠ (frame64.frameImage.px 0).a ∧ Format.color24bit ≠ .color32bit :=
  ⟨{ frame64.frameImage with px := fun i => { frame64.framePixel i with a := 0#8 } }, rfl, rfl,
    fun _ _ => ⟨rfl, rfl, rfl⟩, by decide, by decide⟩

theorem witness_SubBytePackingSlots :
    (∀ c ∈ [3, 0, 2, 1, 3], c < 2 ^ 2) ∧ 1 < (packSub [3, 0, 2, 1, 3] 2 .msbFirst).length ∧ 3 < 8 / 2 := by decide

theorem witness_TwelveBitPacking :
    [0xABC#12, 0x123#12, 0xFFF#12][2 * 0]? = some 0xABC#12 ∧ [0xABC#12, 0x123#12, 0xFFF#12][2 * 0 + 1]? = some 0x123#12
      ∧ [0xABC#12, 0x123#12, 0xFFF#12].length = 2 * 1 + 1 ∧ [0xABC#12, 0x123#12, 0xFFF#12][2 * 1]? = some 0xFFF#12 := by
  decide

/-- HeaderLayout (FMT 0, 3, 4 and 9, the ends of the two classes) and PaletteSerialisation: values at the ends of their
ranges. -/
theorem witness_formats :
    65535 < 65536 ∧ formatOfCode 0#4 = some .mono ∧ formatOfCode 3#4 = some .grayscale
      ∧ formatOfCode 4#4 = some .color256 ∧ formatOfCode 9#4 = some .color32bit
      ∧ [1, 2, 4, 8, 8, 12, 16, 18, 24, 32][(0#4).toNat]? = some 1
      ∧ [1, 2, 4, 8, 8, 12, 16, 18, 24, 32][(9#4).toNat]? = some 32
      ∧ (3#4).toNat ≤ 3 ∧ 4 ≤ (4#4).toNat ∧ (setReg frame64 .hdrCtrl 0xA#32).cfg.hdrCtrl.palSrc = .caller
      ∧ (setReg frame64 .palCount 300#32).cfg.palCount.toNat = 256 ∧ 255 < 256 ∧ 2 < 3 := by decide

/-- QuantizerValues: the two functions exist, for either byte order; both values of each sub-option, and an order of
components. -/
theorem witness_QuantizerValues (c : ConfigRegs) :
    (∃ (grey : Pixel → Nat) (ord : List Nat → List Nat),
        (∀ p, grey p = (p.r.toNat + p.g.toNat + p.b.toNat) / 3)
          ∧ ∀ l, ord l = if c.scan.byteOrder = .lsb then l.reverse else l)
      ∧ (setReg frame64 .format 0x705#32).cfg.format.l12 = true ∧ frame64.cfg.format.l12 = false
      ∧ (setReg frame64 .format 0x706#32).cfg.format.v16 = true ∧ frame64.cfg.format.v16 = false
      ∧ (setReg frame64 .format 0x707#32).cfg.format.p18 = true ∧ frame64.cfg.format.p18 = false
      ∧ (setReg frame64 .format 0x59#32).cfg.format.rgbOrder = .bgr :=
  ⟨⟨_, _, fun _ => rfl, fun _ => rfl⟩, by decide⟩

theorem witness_FramedOutputFits :
    frame64.cfg.palCount.toNat ≤ 256 ∧ frame64.frameImage.W * frame64.frameImage.H ≤ frame64.params.maxPixels
      ∧ ∃ e, frameOut frame64.params .mono frame64.cfg frame64.paletteEntry frame64.frameImage = .ok e :=
  ⟨by decide, by decide, _, rfl⟩

theorem witness_HostAccessesArePerformed :
    State.reset.inReset = false ∧ State.reset.pending = none ∧ busyState.delayLeft ≠ 0
      ∧ accessOffset State.reset.params 0 4 = .ok 0 ∧ accessOffset State.reset.params 0xFFFFFC 4 = .ok 0xFFFFFC
      ∧ accessOffset ⟨1, .fault, 0x1000000⟩ 0x1000008 4 = .ok 0x08 := ⟨rfl, rfl, by decide, rfl, rfl, rfl⟩

theorem witness_MisalignedOrNarrowAccessIsBusError :
    State.reset.params.base ≤ 0x0E ∧ 0xFFFFFF < State.reset.params.base + 16777216
      ∧ (0x0E - State.reset.params.base) % 4 ≠ 0 ∧ (0xFFFFFC - State.reset.params.base) % 4 = 0 ∧ (2 : Nat) ≠ 4 := by
  decide

theorem witness_StatusRegisterBits :
    ∃ v : Word, v = stickyState.readWord 0#32 0x08 ∧ v = 0x00000300#32 :=
  ⟨0x00000300#32, by decide, rfl⟩

/-- The result registers' first and last offset, storable and unstorable codes of each enumerated field, and a mode. -/
theorem witness_ConfigurationRegistersReadBack :
    State.reset.pending = none ∧ isConfigReg .frameW = true ∧ RegName.palCount ≠ .frameW ∧ 0x38 ≤ 0x38 ∧ 0x48 ≤ 0x48
      ∧ (0x50#32).extractLsb' 4 3 = 5#3 ∧ (0x60#32).extractLsb' 4 3 = 6#3 ∧ (0x70#32).extractLsb' 4 3 = 7#3
      ∧ (0x200#32).extractLsb' 8 2 = 2#2 ∧ (0x300#32).extractLsb' 8 2 = 3#2
      ∧ (0x8#32).extractLsb' 2 2 = 2#2 ∧ (0xC#32).extractLsb' 2 2 = 3#2 ∧ (0x3#32).extractLsb' 0 2 = 3#2 := by decide

/-- The ends of each range of offsets, with the smallest and the largest frame RAM. -/
theorem witness_WritesWhileBusyAreDropped :
    busyState.params.wellFormed = true ∧ busyState.pending ≠ none
      ∧ ({ busyState with params := ⟨1, .fault, 0⟩ } : State).params.wellFormed = true
      ∧ (0x0C ≤ 0x34 ∧ 0x34 % 4 = 0) ∧ (0x400 ≤ 0x6FC ∧ 0x6FC < 0x700)
      ∧ (0x100000 ≤ 0x4FFFFC ∧ 0x4FFFFC < 0x100000 + 4 * busyState.params.maxPixels)
      ∧ 0x100000 + 4 * 1 ≤ 0x100004 ∧ (0x38 ≤ 0x3FC ∧ 0x3FC < 0x400) ∧ (0x700 ≤ 0xFFFFC ∧ 0xFFFFC < 0x100000) := by
  decide

/-- FrameWindow, PaletteWindow, OutputWindow and ReservedOffsetsReadZeroIgnoreWrites at the ends of their ranges. -/
theorem witness_windows :
    State.reset.params.wellFormed = true ∧ State.reset.pending = none ∧ 1048575 < State.reset.params.maxPixels
      ∧ (1 ≤ 1 ∧ 0x100000 + 4 * 1048575 < 0x500000) ∧ 191 < 192 ∧ 0x800000 + 4 * 1310719 ≤ 0xCFFFFC ∧ 3 < 4
      ∧ outCap State.reset.params ≤ 4 * 1310719 + 3 ∧ (0x4C ≤ 0x4C ∧ 0x3FC < 0x400)
      ∧ (0x500000 ≤ 0x7FFFFC ∧ 0x7FFFFC < 0x800000) ∧ (0xD00000 ≤ 0xFFFFFC ∧ 0xFFFFFC < 0x1000000) := by decide

/-- OutputWindow's first clause: an output of one byte. -/
theorem witness_OutputWindow :
    ∃ s : State, s.pending = none ∧ 4 * 0 + 0 < s.result.outLen.toNat ∧ 4 * 0 + 0 < outCap s.params :=
  ⟨{ State.reset with result := { ResultRegs.zero with outLen := 1#32 } }, by decide⟩

theorem witness_HardwareReset :
    (∃ s : State, s.inReset = true ∧ s.hostQueue = [.write 0x0C 4 7#32]
        ∧ accessOffset s.params 0x0C 4 = .ok 0x0C)
      ∧ ∃ s : State, s.inReset = true ∧ s.hostQueue = [.resetRelease] :=
  ⟨⟨{ State.reset with inReset := true, hostQueue := [.write 0x0C 4 7#32] }, rfl, rfl, rfl⟩,
    ⟨{ State.reset with inReset := true, hostQueue := [.resetRelease] }, rfl, rfl⟩⟩

end Sys2Proof.Tests
end

section
/-! PROOF. The reserved offsets of the register page and of the window (10_state R34, 20_memory R61, R67). -/

namespace Sys2Proof.Machine

theorem regionOf_registers {off : Nat} (h : off < 0x100) : regionOf off = .registers :=
  if_pos h

/-- The reserved regions of 20_memory R61, and every offset past the output window. -/
theorem regionOf_reserved {off : Nat}
    (h : (0x100 ≤ off ∧ off < 0x400) ∨ (0x700 ≤ off ∧ off < 0x100000) ∨ (0x500000 ≤ off ∧ off < 0x800000)
      ∨ 0xD00000 ≤ off) : regionOf off = .reserved := by
  unfold regionOf
  split_ifs <;> first | rfl | omega

/-- What an access does at an offset of the register page that holds no register (10_state R34). -/
theorem State.access_of_regAt_none (s : State) (u w : Word) {off : Nat} (hpage : regionOf off = .registers)
    (hreg : regAt off = none) : s.readWord u off = 0#32 ∧ s.writeWord off w = s := by
  simp [State.readWord, State.writeWord, hpage, hreg]

/-- What an access does in a reserved region (20_memory R67). -/
theorem State.access_of_region_reserved (s : State) (u w : Word) {off : Nat}
    (hregion : regionOf off = .reserved) : s.readWord u off = 0#32 ∧ s.writeWord off w = s := by
  simp [State.readWord, State.writeWord, hregion]

end Sys2Proof.Machine

namespace Sys2Proof

open Machine

/-- Settles O59: below 0x100 a reserved offset holds no register, and every other one lies in a reserved region.
Neither branch of an access looks at BUSY. -/
theorem reservedOffsetsReadZeroIgnoreWrites : Obligations.ReservedOffsetsReadZeroIgnoreWrites := by
  unfold Obligations.ReservedOffsetsReadZeroIgnoreWrites
  intro s u w off _ hoff
  by_cases hpage : off < 0x100
  · have hreg : regAt off = none := regAt_none (by omega)
    exact s.access_of_regAt_none u w (regionOf_registers hpage) hreg
  · have hregion : regionOf off = .reserved := regionOf_reserved (by omega)
    exact s.access_of_region_reserved u w hregion

end Sys2Proof
end

section
/-! PROOF. The windows of the three RAMs (20_memory R64 to R66, R69): the word a read of each returns, what a write to
each does, and the bytes of the RAM after it. -/

namespace Sys2Proof.Machine

/-! ### Lanes -/

/-- Any lane of a word built from four bytes (20_memory R68). -/
theorem lane_wordOfLanes (f : Nat → Byte) {j : Nat} (hj : j < 4) :
    lane (wordOfLanes (f 0) (f 1) (f 2) (f 3)) j = f j := by
  obtain ⟨h0, h1, h2, h3⟩ := lanes_wordOfLanes (f 0) (f 1) (f 2) (f 3)
  match j, hj with
  | 0, _ => exact h0
  | 1, _ => exact h1
  | 2, _ => exact h2
  | 3, _ => exact h3

/-- Read after a write of one aligned word: byte `k` is the lane `k mod 4` of the word, if it is one of that word's. -/
theorem Memory.get?_write_lanes (mem : Memory) (m : Nat) (w : Word) (k : Nat) :
    Memory.get? (Memory.write mem (4 * m) (lanes w)) k
      = if k / 4 = m then some (lane w (k % 4)) else Memory.get? mem k := by
  rw [Memory.get?_write, lanes_length]
  by_cases hk : k / 4 = m
  · rw [if_pos (by omega), if_pos hk, show k - 4 * m = k % 4 by omega, lanes_getElem? w _ (by omega)]
  · rw [if_neg (by omega), if_neg hk]

/-- The RAM's bytes after an idle write to the frame window. -/
theorem State.frameByte_storeFrame (s : State) (i : Nat) (w : Word) (k : Nat) :
    (s.storeFrame i w).frameByte k = if k / 4 = i then lane w (k % 4) else s.frameByte k := by
  rw [State.frameByte, State.storeFrame_frame, State.storeFrame_powerOnEpoch, Memory.get?_write_lanes]
  split <;> rfl

/-- The RAM's bytes after an idle write to the palette window. -/
theorem State.paletteByte_storePalette (s : State) (m : Nat) (w : Word) (k : Nat) :
    (s.storePalette m w).paletteByte k = if k / 4 = m then lane w (k % 4) else s.paletteByte k := by
  rw [State.paletteByte, State.storePalette_palette, State.storePalette_powerOnEpoch, Memory.get?_write_lanes]
  split <;> rfl

/-- Pixel `i` after an idle write to its word: lanes r, g, b, a. -/
theorem State.framePixel_storeFrame (s : State) (i : Nat) (w : Word) :
    (s.storeFrame i w).framePixel i = ⟨lane w 0, lane w 1, lane w 2, lane w 3⟩ := by
  have hbyte : ∀ j, j < 4 → (s.storeFrame i w).frameByte (4 * i + j) = lane w j := by
    intro j hj
    rw [State.frameByte_storeFrame, if_pos (by omega), show (4 * i + j) % 4 = j by omega]
  rw [State.framePixel, hbyte 1 (by decide), hbyte 2 (by decide), hbyte 3 (by decide),
    show 4 * i = 4 * i + 0 from rfl, hbyte 0 (by decide)]

/-! ### Accesses at an offset of a window -/

theorem State.busy_eq_false {s : State} (hidle : s.pending = none) : s.busy = false := by
  simp [State.busy, hidle]

/-- The words of the frame window all lie in its region, since MAX_PIXELS is at most 2^20 (00_scope R8). -/
theorem frame_offset_lt {p : Params} (hp : p.wellFormed = true) {i : Nat} (hi : i < p.maxPixels) :
    0x100000 + 4 * i < 0x500000 := by
  simp only [Params.wellFormed, Bool.and_eq_true, decide_eq_true_eq] at hp
  omega

theorem frame_word_index (i : Nat) : (0x100000 + 4 * i - frameBase) / 4 = i := by
  unfold frameBase
  omega

theorem palette_word_index (m : Nat) : (0x400 + 4 * m - paletteBase) / 4 = m := by
  unfold paletteBase
  omega

theorem output_word_index (m : Nat) : (0x800000 + 4 * m - outputBase) / 4 = m := by
  unfold outputBase
  omega

section

variable (s : State) (u w : Word)

theorem State.readWord_frameWindow {i : Nat} (hidle : s.pending = none) (hoff : 0x100000 + 4 * i < 0x500000) :
    s.readWord u (0x100000 + 4 * i) = s.frameWord i := by
  simp [State.readWord, regionOf_frame hoff, frame_word_index, State.busy_eq_false hidle]

/-- A read of the palette window is the same busy or idle (20_memory R69). -/
theorem State.readWord_paletteWindow {m : Nat} (hm : m < 192) : s.readWord u (0x400 + 4 * m) = s.paletteWord m := by
  simp [State.readWord, regionOf_palette hm, palette_word_index]

theorem State.readWord_outputWindow {m : Nat} (hidle : s.pending = none) (hoff : 0x800000 + 4 * m ≤ 0xCFFFFC) :
    s.readWord u (0x800000 + 4 * m) = s.outputWord u m := by
  simp [State.readWord, regionOf_output hoff, output_word_index, State.busy_eq_false hidle]

theorem State.writeWord_frameWindow {i : Nat} (hidle : s.pending = none) (hi : i < s.params.maxPixels)
    (hoff : 0x100000 + 4 * i < 0x500000) : s.writeWord (0x100000 + 4 * i) w = s.storeFrame i w := by
  simp [State.writeWord, regionOf_frame hoff, frame_word_index, State.busy_eq_false hidle, hi]

/-- A write past MAX_PIXELS is ignored, busy or not (20_memory R64, 92 D44). -/
theorem State.writeWord_frameWindow_past {i : Nat} (hi : s.params.maxPixels ≤ i) (hoff : 0x100000 + 4 * i < 0x500000) :
    s.writeWord (0x100000 + 4 * i) w = s := by
  simp [State.writeWord, regionOf_frame hoff, frame_word_index, Nat.not_lt.mpr hi]

theorem State.writeWord_paletteWindow {m : Nat} (hidle : s.pending = none) (hm : m < 192) :
    s.writeWord (0x400 + 4 * m) w = s.storePalette m w := by
  simp [State.writeWord, regionOf_palette hm, palette_word_index, State.busy_eq_false hidle]

theorem State.writeWord_outputWindow {m : Nat} (hoff : 0x800000 + 4 * m ≤ 0xCFFFFC) :
    s.writeWord (0x800000 + 4 * m) w = s := by
  simp [State.writeWord, regionOf_output hoff]

/-! ### The words read, lane by lane -/

/-- Word `i` of the frame window is pixel `i`, r in the low lane. -/
theorem State.frameWord_lanes {i : Nat} (hi : i < s.params.maxPixels) :
    lane (s.frameWord i) 0 = (s.framePixel i).r ∧ lane (s.frameWord i) 1 = (s.framePixel i).g
      ∧ lane (s.frameWord i) 2 = (s.framePixel i).b ∧ lane (s.frameWord i) 3 = (s.framePixel i).a := by
  rw [State.frameWord, if_pos hi]
  exact lanes_wordOfLanes _ _ _ _

theorem State.frameWord_past {i : Nat} (hi : s.params.maxPixels ≤ i) : s.frameWord i = 0#32 :=
  if_neg (Nat.not_lt.mpr hi)

theorem State.paletteWord_lane (m : Nat) {j : Nat} (hj : j < 4) :
    lane (s.paletteWord m) j = s.paletteByte (4 * m + j) :=
  lane_wordOfLanes (fun i => s.paletteByte (4 * m + i)) hj

theorem State.outputWord_lane (m : Nat) {j : Nat} (hj : j < 4) :
    lane (s.outputWord u m) j = s.outputLane u (4 * m + j) :=
  lane_wordOfLanes (fun i => s.outputLane u (4 * m + i)) hj

/-- Below OUT_LEN and OUT_CAP an output byte reads as it stands in the RAM. -/
theorem State.outputLane_below {k : Nat} (hlen : k < s.result.outLen.toNat) (hcap : k < outCap s.params) :
    s.outputLane u k = s.outputByte k := by
  rw [State.outputLane, if_neg (Nat.not_le.mpr hcap), if_pos hlen]

theorem State.outputLane_past {k : Nat} (hcap : outCap s.params ≤ k) : s.outputLane u k = 0#8 :=
  if_pos hcap

end

end Sys2Proof.Machine

namespace Sys2Proof

open Machine

/-- Settles O56: below MAX_PIXELS an access to the window reads or stores the word of one pixel; past it no access
reaches the RAM. -/
theorem frameWindow : Obligations.FrameWindow := by
  unfold Obligations.FrameWindow
  intro s u w i hp hidle
  constructor
  · intro hi
    have hoff := frame_offset_lt hp hi
    rw [s.readWord_frameWindow u hidle hoff, s.writeWord_frameWindow w hidle hi hoff]
    refine ⟨s.frameWord_lanes hi, s.framePixel_storeFrame i w, ?_, rfl⟩
    intro k hk
    rw [State.frameByte_storeFrame, if_neg hk]
  · intro hi hoff
    rw [s.readWord_frameWindow u hidle hoff]
    exact ⟨s.frameWord_past hi, s.writeWord_frameWindow_past w hi hoff⟩

/-- Settles O57: a read returns the RAM's word in every state; an idle write stores the four lanes and nothing else. -/
theorem paletteWindow : Obligations.PaletteWindow := by
  unfold Obligations.PaletteWindow
  intro s u w m hm
  rw [s.readWord_paletteWindow u hm]
  refine ⟨fun j hj => s.paletteWord_lane m hj, fun e => rfl, fun hidle => ?_⟩
  rw [s.writeWord_paletteWindow w hidle hm]
  refine ⟨?_, ?_, rfl⟩
  · intro j hj
    rw [State.paletteByte_storePalette, if_pos (by omega), show (4 * m + j) % 4 = j by omega]
    rfl
  · intro k hk
    rw [State.paletteByte_storePalette, if_neg hk]

/-- Settles O58: lane `j` of an idle read is the output lane of byte `4m + j`; no write reaches the RAM. -/
theorem outputWindow : Obligations.OutputWindow := by
  unfold Obligations.OutputWindow
  intro s u w m j hoff hj
  refine ⟨s.writeWord_outputWindow w hoff, fun hidle => ?_⟩
  have hlane : (s.readWord u (0x800000 + 4 * m)).extractLsb' (8 * j) 8 = s.outputLane u (4 * m + j) := by
    rw [s.readWord_outputWindow u hidle hoff]
    exact s.outputWord_lane u m hj
  rw [hlane]
  exact ⟨s.outputLane_below u, s.outputLane_past u⟩

end Sys2Proof
end

section
/-! PROOF. The stage commands RESIZE, ROTATE, ADJ_BRIGHT, INVERT and PREPROCESS on a readable frame (40_preprocess R103
to R107, R111, R115, R122): the image each leaves in the frame. -/

namespace Sys2Proof.Machine

/-! ### The image in the frame after a stage command -/

/-- The frame of `t` is the image: its dimensions and its `W * H` entries (40_preprocess R102). -/
structure State.FrameIs (t : State) (img : Image) : Prop where
  width : t.frameW.toNat = img.W
  height : t.frameH.toNat = img.H
  entries : ∀ i, i < img.W * img.H → t.framePixel i = img.px i

/-- `write_frame` stores every image whose dimensions the 16-bit registers hold. -/
theorem State.frameIs_writeFrame (s : State) {img : Image} (hW : img.W < 2 ^ 16) (hH : img.H < 2 ^ 16) :
    (s.writeFrame img).FrameIs img := by
  refine ⟨?_, ?_, s.framePixel_writeFrame img⟩
  · rw [State.writeFrame_frameW, BitVec.toNat_ofNat, Nat.mod_eq_of_lt hW]
  · rw [State.writeFrame_frameH, BitVec.toNat_ofNat, Nat.mod_eq_of_lt hH]

theorem State.FrameIs.completeOk {t : State} {img : Image} (ht : t.FrameIs img) : t.completeOk.FrameIs img :=
  ⟨ht.width, ht.height, ht.entries⟩

theorem State.completeOk_succeeded (s : State) : s.completeOk.Succeeded := ⟨rfl, rfl, rfl, rfl⟩

section

variable {i : Instr} {s : State} {op : Image → Except CmdError Image}

/-- A stage command whose operation succeeds leaves the operation's image in the frame. -/
theorem exec_stage_frameIs {img : Image} (hexec : exec i s = .next (s.runStage op)) (h : s.FrameReadable)
    (hop : op s.frameImage = .ok img) (hW : img.W < 2 ^ 16) (hH : img.H < 2 ^ 16) :
    ∃ t : State, exec i s = .next t ∧ t.Succeeded ∧ t.FrameIs img := by
  rw [hexec, s.runStage_ok op h hop]
  exact ⟨_, rfl, State.completeOk_succeeded _, (s.frameIs_writeFrame hW hH).completeOk⟩

/-- A stage command whose operation fails changes STATUS only (60_exceptions R233). -/
theorem exec_stage_error {e : CmdError} (hexec : exec i s = .next (s.runStage op)) (h : s.FrameReadable)
    (hop : op s.frameImage = .error e) : exec i s = .next (s.afterError (errorCode e)) := by
  rw [hexec]
  simp [State.runStage, s.readFrame_ok h, hop, State.complete, State.completeError_eq, bind, Except.bind]

end

/-- The dimensions of an image in the frame, as the registers that hold them. -/
theorem State.FrameIs.registers {t : State} {img : Image} {w h : BitVec 16} (ht : t.FrameIs img)
    (hw : img.W = w.toNat := by rfl) (hh : img.H = h.toNat := by rfl) : t.frameW = w ∧ t.frameH = h :=
  ⟨BitVec.eq_of_toNat_eq (ht.width.trans hw), BitVec.eq_of_toNat_eq (ht.height.trans hh)⟩

/-- The entry of an image in the frame at coordinates. -/
theorem State.FrameIs.framePixel {t : State} {img : Image} (ht : t.FrameIs img) {x y : Nat} (hx : x < img.W)
    (hy : y < img.H) : t.framePixel (y * img.W + x) = img.pixel x y :=
  ht.entries _ (row_major_lt hx hy)

/-- A tabulated image in the frame, read back by registers and coordinates. -/
theorem State.FrameIs.tabulate {t : State} {w h : BitVec 16} {f : Nat → Nat → Pixel}
    (ht : t.FrameIs (Image.tabulate w.toNat h.toNat f)) :
    t.frameW = w ∧ t.frameH = h
      ∧ ∀ x y, x < w.toNat → y < h.toNat → t.framePixel (y * w.toNat + x) = f x y := by
  obtain ⟨hw, hh⟩ := ht.registers
  exact ⟨hw, hh, fun x y hx hy => (ht.framePixel hx hy).trans (Image.tabulate_pixel f hx)⟩

/-! ### One function on the color channels -/

/-- A stage command that maps R, G and B keeps the dimensions and alpha. -/
theorem exec_stage_mapRgb {i : Instr} {s : State} {f : Byte → Byte}
    (hexec : exec i s = .next (s.runStage fun img => .ok (img.mapRgb f))) (h : s.FrameReadable) :
    ∃ t : State, exec i s = .next t ∧ t.Succeeded ∧ t.frameW = s.frameW ∧ t.frameH = s.frameH
      ∧ ∀ k, k < s.frameW.toNat * s.frameH.toNat →
        t.framePixel k = ⟨f (s.framePixel k).r, f (s.framePixel k).g, f (s.framePixel k).b, (s.framePixel k).a⟩ := by
  obtain ⟨t, hrun, hok, ht⟩ := exec_stage_frameIs hexec h rfl s.frameW.isLt s.frameH.isLt
  obtain ⟨hw, hh⟩ := ht.registers
  exact ⟨t, hrun, hok, hw, hh, ht.entries⟩

/-- The clamp of 00_scope R10 to a byte's range. -/
theorem clamp_zero_255 (v : Int) : clamp v 0 255 = min 255 (max 0 v) := by
  unfold clamp
  split_ifs <;> omega

theorem brightChannel_toNat (b : Int) (v : Byte) :
    ((brightChannel b v).toNat : Int) = min 255 (max 0 (v.toNat + b)) := by
  rw [brightChannel, clamp8_toNat, clamp_zero_255]

theorem invertChannel_toNat (v : Byte) : (255#8 - v).toNat = 255 - v.toNat := by
  bv_omega

/-! ### Rotations and resize -/

theorem rotate_zero (img : Image) : rotate img 0#2 = img := rfl

theorem rotate_one (img : Image) :
    rotate img 1#2 = Image.tabulate img.H img.W (fun x y => img.pixel y (img.H - 1 - x)) := rfl

theorem rotate_two (img : Image) :
    rotate img 2#2 = Image.tabulate img.W img.H (fun x y => img.pixel (img.W - 1 - x) (img.H - 1 - y)) := rfl

theorem rotate_three (img : Image) :
    rotate img 3#2 = Image.tabulate img.H img.W (fun x y => img.pixel (img.W - 1 - y) x) := rfl

theorem rotate_dims_lt {img : Image} {n : Nat} (k : BitVec 2) (hW : img.W < n) (hH : img.H < n) :
    (rotate img k).W < n ∧ (rotate img k).H < n := by
  rcases rotate_dims img k with ⟨hw, hh⟩ | ⟨hw, hh⟩ <;> rw [hw, hh]
  · exact ⟨hW, hH⟩
  · exact ⟨hH, hW⟩

/-- The two clauses of 40_preprocess R104 fix the new dimensions. -/
theorem resizeDims_eq_of_binding {W H mw mh W' H' : Nat}
    (hwidth : W * mh ≥ H * mw → W' = mw ∧ H' = (2 * (H * mw) + W) / (2 * W))
    (hheight : W * mh < H * mw → W' = (2 * (W * mh) + H) / (2 * H) ∧ H' = mh) :
    resizeDims W H mw mh = (W', H') := by
  rw [resizeDims_eq]
  split
  · next hb =>
    obtain ⟨rfl, rfl⟩ := hwidth hb
    rfl
  · next hb =>
    obtain ⟨rfl, rfl⟩ := hheight (Nat.lt_of_not_ge hb)
    rfl

theorem resize_of_fits {img : Image} {mw mh : Nat} (hfit : img.W ≤ mw ∧ img.H ≤ mh) :
    resize img mw mh = .ok img := if_pos hfit

theorem resize_of_dims {img : Image} {mw mh W' H' : Nat} (hfit : ¬ (img.W ≤ mw ∧ img.H ≤ mh))
    (hd : resizeDims img.W img.H mw mh = (W', H')) :
    resize img mw mh = if W' = 0 ∨ H' = 0 then .error .invalidDimension else .ok (resample img W' H') := by
  rw [resize, if_neg hfit, hd]

/-- Writing a frame back as it was read changes no entry, inside the frame or past it. -/
theorem State.framePixel_writeFrame_frameImage (s : State) (i : Nat) :
    (s.writeFrame s.frameImage).framePixel i = s.framePixel i := by
  by_cases hi : i < s.frameImage.W * s.frameImage.H
  · rw [s.framePixel_writeFrame _ i hi, State.frameImage_px]
  · exact s.framePixel_writeFrame_outside _ i (Nat.le_of_not_lt hi)

/-! ### The steps of PREPROCESS -/

theorem preResize_ok {c : ConfigRegs} {img out : Image}
    (h : if c.preCtrl.resizeEn then resize img c.maxW.toNat c.maxH.toNat = .ok out else out = img) :
    preResize c img = .ok out := by
  unfold preResize
  split
  · next hen => rwa [if_pos hen] at h
  · next hen =>
    rw [if_neg hen] at h
    rw [h]

/-- Dithering is for the mono format only (40_preprocess R122). -/
theorem preDither_eq (c : ConfigRegs) (img : Image) :
    preDither c img
      = if c.format.fmt = 0#4 ∧ c.preCtrl.dither = .errorDiffusion then ditherFs img
        else if c.format.fmt = 0#4 ∧ c.preCtrl.dither = .ordered then ditherBayer img else img := by
  unfold preDither
  by_cases hf : c.format.fmt = 0#4
  · cases hd : c.preCtrl.dither <;> simp [hf]
  · simp [hf]

end Sys2Proof.Machine

namespace Sys2Proof

open Machine

/-- Settles O15: R104's clauses are the model's `resizeDims`, and R105's samples are the pixels of `resample`. -/
theorem resizeCommand : Obligations.ResizeCommand := by
  unfold Obligations.ResizeCommand
  rintro s W H mw mh hs rfl rfl rfl rfl
  constructor
  · intro hfit
    have hok : resize s.frameImage s.cfg.maxW.toNat s.cfg.maxH.toNat = .ok s.frameImage := resize_of_fits hfit
    obtain ⟨hw, hh⟩ := (s.frameIs_writeFrame (img := s.frameImage) s.frameW.isLt s.frameH.isLt).registers
    have hrun : exec .resize s = .next (s.writeFrame s.frameImage).completeOk :=
      congrArg Host.Outcome.next (s.runStage_ok (fun img => resize img _ _) hs hok)
    exact ⟨_, hrun, State.completeOk_succeeded _, hw, hh, s.framePixel_writeFrame_frameImage⟩
  · intro W' H' hfit hwidth hheight
    have hd := resizeDims_eq_of_binding hwidth hheight
    have hres := resize_of_dims (img := s.frameImage) hfit hd
    constructor
    · intro hzero
      rw [if_pos hzero] at hres
      exact exec_stage_error (i := .resize) rfl hs hres
    · intro hW' hH'
      have ⟨hWpos, hHpos, _⟩ := hs
      obtain ⟨hmw, hmh, hWle, hHle⟩ := hd ▸ resizeDims_bounds hWpos hHpos hfit
      rw [if_neg (by omega)] at hres
      obtain ⟨t, hrun, hok, ht⟩ := exec_stage_frameIs (i := .resize) rfl hs hres
        (Nat.lt_of_le_of_lt hWle s.frameW.isLt) (Nat.lt_of_le_of_lt hHle s.frameH.isLt)
      exact ⟨hmw, hmh, t, hrun, hok, ht.width, ht.height, fun x y hx hy =>
        (ht.framePixel hx hy).trans (Image.tabulate_pixel _ hx)⟩

/-- Settles O17: each value of ROT leaves its own tabulated image in the frame. -/
theorem rotateCommand : Obligations.RotateCommand := by
  unfold Obligations.RotateCommand
  rintro s W H hs rfl rfl
  obtain ⟨hW, hH⟩ := rotate_dims_lt (img := s.frameImage) s.cfg.preCtrl.rot s.frameW.isLt s.frameH.isLt
  obtain ⟨t, hrun, hok, ht⟩ := exec_stage_frameIs (i := .rotate) rfl hs rfl hW hH
  refine ⟨t, hrun, hok, fun hr => ?_, fun hr => ?_, fun hr => ?_, fun hr => ?_⟩ <;> rw [hr] at ht
  · rw [rotate_zero] at ht
    obtain ⟨hw, hh⟩ := ht.registers
    exact ⟨hw, hh, fun x y => ht.framePixel⟩
  · rw [rotate_one] at ht
    exact ht.tabulate
  · rw [rotate_two] at ht
    exact ht.tabulate
  · rw [rotate_three] at ht
    exact ht.tabulate

/-- Settles O19: brightness is a map of the three channels, and each sum is clamped to a byte. -/
theorem adjustBrightnessCommand : Obligations.AdjustBrightnessCommand := by
  unfold Obligations.AdjustBrightnessCommand
  intro s hs
  obtain ⟨t, hrun, hok, hw, hh, hpx⟩ := exec_stage_mapRgb (i := .adjBright) rfl hs
  refine ⟨t, hrun, hok, hw, hh, fun i hi => ?_⟩
  rw [hpx i hi]
  exact ⟨brightChannel_toNat .., brightChannel_toNat .., brightChannel_toNat .., rfl⟩

/-- Settles O21: inversion is a map of the three channels. -/
theorem invertCommand : Obligations.InvertCommand := by
  unfold Obligations.InvertCommand
  intro s hs
  obtain ⟨t, hrun, hok, hw, hh, hpx⟩ := exec_stage_mapRgb (i := .invert) rfl hs
  refine ⟨t, hrun, hok, hw, hh, fun i hi => ?_⟩
  rw [hpx i hi]
  exact ⟨invertChannel_toNat _, invertChannel_toNat _, invertChannel_toNat _, rfl⟩

/-- Settles O26: the chain of images is the model's `preprocess`, whose result fits the dimension registers. -/
theorem preprocessCommand : Obligations.PreprocessCommand := by
  unfold Obligations.PreprocessCommand
  intro s i1 i2 i3 i4 i5 i6 i7 hs h1 h2 h3 h4 h5 h6 h7
  have htonal : i6 = preTonal s.cfg i3 := by
    rw [h6, h5, h4]
    rfl
  have hpre : preprocess s.cfg s.frameImage = .ok i7 := by
    rw [preprocess_eq, preResize_ok h1, h7, ← preDither_eq, htonal, h3, h2]
    rfl
  have ⟨hWpos, hHpos, _⟩ := hs
  obtain ⟨_, _, _, hW, hH⟩ := preprocess_dims hWpos hHpos hpre
  have hmax : max s.frameImage.W s.frameImage.H < 2 ^ 16 := max_lt s.frameW.isLt s.frameH.isLt
  obtain ⟨t, hrun, hok, ht⟩ := exec_stage_frameIs (i := .preprocess) rfl hs hpre
    (Nat.lt_of_le_of_lt hW hmax) (Nat.lt_of_le_of_lt hH hmax)
  exact ⟨t, hrun, hok, ht.width, ht.height, ht.entries⟩

end Sys2Proof
end

section
/-! PROOF. The ranges of error diffusion (40_preprocess R118): the accumulator as the four shares each position has
received, and the bounds of what is computed from it. -/

namespace Sys2Proof.Machine

/-- The error left by the raster loop at index `k` (40_preprocess R117). -/
def fsErr (img : Image) (k : Nat) : Int := (fsPixel img (fsRun img k).E k).err

/-- What position `j` has received, after `n` pixels, from the pixel `d` positions before it: that pixel's share of
weight `w`, if it is done and its share is `aimed` inside the image. -/
def fsShare (img : Image) (n j d : Nat) (w : Int) (aimed : Nat → Prop) [DecidablePred aimed] : Int :=
  if d ≤ j ∧ j - d < n ∧ aimed (j - d) then floorDiv (w * fsErr img (j - d)) 16 else 0

theorem fsShare_zero (img : Image) (j d : Nat) (w : Int) (aimed : Nat → Prop) [DecidablePred aimed] :
    fsShare img 0 j d w aimed = 0 := by
  simp [fsShare]

/-- One more pixel adds its share at the position that is `d` after it. -/
theorem fsShare_succ (img : Image) (n j d : Nat) (w : Int) (aimed : Nat → Prop) [DecidablePred aimed] :
    fsShare img (n + 1) j d w aimed
      = fsShare img n j d w aimed + (if aimed n ∧ j = n + d then floorDiv (w * fsErr img n) 16 else 0) := by
  unfold fsShare
  by_cases hj : j = n + d
  · subst hj
    simp
  · have hiff : (d ≤ j ∧ j - d < n + 1 ∧ aimed (j - d)) ↔ (d ≤ j ∧ j - d < n ∧ aimed (j - d)) :=
      and_congr_right fun hd => and_congr_left fun _ => by omega
    rw [if_congr hiff rfl rfl]
    simp [hj]

/-- The accumulator after `n` pixels, at every position: the right, lower left, lower and lower right shares it has
received (40_preprocess R117). -/
theorem fsRun_E_getD (img : Image) (n j : Nat) (hn : n ≤ img.W * img.H) :
    (fsRun img n).E.getD j 0
      = fsShare img n j 1 7 (fun k => k % img.W + 1 < img.W)
        + fsShare img n j (img.W - 1) 3 (fun k => 1 ≤ k % img.W ∧ k / img.W + 1 < img.H)
        + fsShare img n j img.W 5 (fun k => k / img.W + 1 < img.H)
        + fsShare img n j (img.W + 1) 1 (fun k => k % img.W + 1 < img.W ∧ k / img.W + 1 < img.H) := by
  induction n with
  | zero => simp [fsRun, fsShare_zero]
  | succ n ih =>
    have hW : 0 < img.W := Nat.pos_of_ne_zero (by rintro h; simp [h] at hn)
    have hstep : (fsRun img (n + 1)).E = fsSpread img.W img.H (fsRun img n).E n (fsErr img n) := by
      rw [fsRun_succ]
      rfl
    rw [hstep, fsSpread_getD _ _ _ _ _ _ (fsRun_E_length img n) hn, ih (by omega), Nat.add_sub_assoc hW,
      fsShare_succ, fsShare_succ, fsShare_succ, fsShare_succ]
    simp only [Nat.add_assoc]
    ring

/-- An error in range leaves a share in the range of the share's weight. -/
theorem fsShare_bounds {img : Image} {n : Nat} (herr : ∀ k, k < n → -128 ≤ fsErr img k ∧ fsErr img k ≤ 127) (j d : Nat)
    {w : Int} (hw : 0 ≤ w) (aimed : Nat → Prop) [DecidablePred aimed] :
    -128 * w / 16 ≤ fsShare img n j d w aimed ∧ fsShare img n j d w aimed ≤ 127 * w / 16 := by
  unfold fsShare
  split
  · next h =>
    obtain ⟨hlo, hhi⟩ := herr _ h.2.1
    exact ⟨Int.ediv_le_ediv (by decide) (by nlinarith), Int.ediv_le_ediv (by decide) (by nlinarith)⟩
  · omega

/-- Errors in range keep the accumulator in range: the shares of weights 7, 3, 5 and 1 sum to at most 55 + 23 + 39 + 7,
and to at least -(56 + 24 + 40 + 8). -/
theorem fsRun_E_getD_bounds {img : Image} {n : Nat} (hn : n ≤ img.W * img.H)
    (herr : ∀ k, k < n → -128 ≤ fsErr img k ∧ fsErr img k ≤ 127) (j : Nat) :
    -128 ≤ (fsRun img n).E.getD j 0 ∧ (fsRun img n).E.getD j 0 ≤ 124 := by
  rw [fsRun_E_getD img n j hn]
  have hright := fsShare_bounds herr j 1 (w := 7) (by decide) (fun k => k % img.W + 1 < img.W)
  have hlowerLeft := fsShare_bounds herr j (img.W - 1) (w := 3) (by decide)
    (fun k => 1 ≤ k % img.W ∧ k / img.W + 1 < img.H)
  have hlower := fsShare_bounds herr j img.W (w := 5) (by decide) (fun k => k / img.W + 1 < img.H)
  have hlowerRight := fsShare_bounds herr j (img.W + 1) (w := 1) (by decide)
    (fun k => k % img.W + 1 < img.W ∧ k / img.W + 1 < img.H)
  omega

theorem lumMean_le (p : Pixel) : lumMean p ≤ 255 := by
  unfold lumMean
  omega

/-- The value thresholded and the error left, from the accumulated error read (40_preprocess R118). -/
theorem fsPixel_bounds (img : Image) (E : List Int) (k : Nat) (hE : -128 ≤ E.getD k 0 ∧ E.getD k 0 ≤ 124) :
    (-128 ≤ (fsPixel img E k).old ∧ (fsPixel img E k).old ≤ 379)
      ∧ (-128 ≤ (fsPixel img E k).err ∧ (fsPixel img E k).err ≤ 127) := by
  have hlum := lumMean_le (img.px k)
  simp only [fsPixel]
  split_ifs <;> omega

/-- Every error of the loop is in range: each is made from the shares of earlier ones. -/
theorem fsErr_bounds (img : Image) (k : Nat) (hk : k < img.W * img.H) : -128 ≤ fsErr img k ∧ fsErr img k ≤ 127 := by
  induction k using Nat.strong_induction_on with
  | _ k ih =>
    have hE := fsRun_E_getD_bounds (Nat.le_of_lt hk) (fun i hi => ih i hi (Nat.lt_trans hi hk)) k
    exact (fsPixel_bounds img _ k hE).2

theorem fsRun_E_bounds (img : Image) {n : Nat} (hn : n ≤ img.W * img.H) (j : Nat) :
    -128 ≤ (fsRun img n).E.getD j 0 ∧ (fsRun img n).E.getD j 0 ≤ 124 :=
  fsRun_E_getD_bounds hn (fun k hk => fsErr_bounds img k (Nat.lt_of_lt_of_le hk hn)) j

theorem fsTrace_eq (img : Image) :
    fsTrace img = (List.range (img.W * img.H)).map (fun k => fsPixel img (fsRun img k).E k) :=
  fsRun_done img _

end Sys2Proof.Machine

namespace Sys2Proof

open Machine

/-- Settles O23: the accumulator's bound holds at every pixel of the trace, and gives the other two. -/
theorem errorDiffusionValuesStayInRange : Obligations.ErrorDiffusionValuesStayInRange := by
  unfold Obligations.ErrorDiffusionValuesStayInRange
  intro img
  constructor
  · intro p hp
    rw [fsTrace_eq] at hp
    obtain ⟨k, hk, rfl⟩ := List.mem_map.mp hp
    have hacc := fsRun_E_bounds img (Nat.le_of_lt (List.mem_range.mp hk)) k
    obtain ⟨hold, herr⟩ := fsPixel_bounds img _ k hacc
    exact ⟨herr, hacc, hold, by omega⟩
  · intro n hn e he
    obtain ⟨j, hj, rfl⟩ := List.mem_iff_getElem.mp he
    rw [← List.getD_eq_getElem _ 0 hj]
    exact fsRun_E_bounds img hn j

end Sys2Proof
end

section
/-! PROOF. The payload: its length (41_quantize_pack R163), and what it does not depend on: alpha outside color32bit
(R160) and the sub-options of other formats (R159). -/

namespace Sys2Proof.Machine

/-- The payload reads the registers through the scan mode and the packer, and the image through its scan sequence. -/
theorem payload_congr {p : Params} {f : Format} {c c' : ConfigRegs} {img img' : Image}
    (hmode : effectiveMode p f c' = effectiveMode p f c)
    (hpack : ∀ mode, pack f c' (scanSeq mode img') = pack f c (scanSeq mode img)) :
    payload p f c' img' = payload p f c img := by
  simp only [payload, hmode, hpack]

/-! ### The length of a payload -/

theorem payloadLength_of_group {f : Format} {l12 : Bool} {g : Nat} (h : groupBytes f l12 = some g) (n : Nat) :
    payloadLength f l12 n = n * g := by
  simp [payloadLength, h]

theorem payloadLength_of_packed {f : Format} {l12 : Bool} (h : groupBytes f l12 = none) (n : Nat) :
    payloadLength f l12 n = (n * bitsPerPixel f + 7) / 8 := by
  simp [payloadLength, h, ceilDiv]

theorem groupBytes_color4096 {l12 : Bool} : groupBytes .color4096 l12 = if l12 then some 2 else none := rfl

/-! ### Alpha -/

/-- The pixel with its alpha channel cleared. -/
def Pixel.clearAlpha (p : Pixel) : Pixel := { p with a := 0#8 }

theorem Pixel.clearAlpha_eq_of_rgb {p q : Pixel} (h : p.r = q.r ∧ p.g = q.g ∧ p.b = q.b) :
    p.clearAlpha = q.clearAlpha := by
  obtain ⟨hr, hg, hb⟩ := h
  simp [clearAlpha, hr, hg, hb]

theorem ordered_clearAlpha (o : RgbOrder) (p : Pixel) : ordered o p.clearAlpha = ordered o p := by
  cases o <;> rfl

theorem packBytes_map (group : Pixel → List Byte) (bo : ByteOrder) (g : Pixel → Pixel) (seq : List Pixel) :
    packBytes group bo (seq.map g) = packBytes (group ∘ g) bo seq :=
  List.flatMap_map ..

/-- The packer of every format but color32bit reads no alpha: none of its codes and groups does. -/
theorem pack_map_clearAlpha {f : Format} (hf : f ≠ .color32bit) (c : ConfigRegs) (seq : List Pixel) :
    pack f c (seq.map Pixel.clearAlpha) = pack f c seq := by
  cases f
  case color32bit => exact absurd rfl hf
  case color24bit =>
    have hgroup : groupColor24 c.format.rgbOrder ∘ Pixel.clearAlpha = groupColor24 c.format.rgbOrder :=
      funext (ordered_clearAlpha _)
    simp only [pack, packBytes_map, hgroup]
  all_goals
    simp only [pack, packBytes_map, List.map_map]
    rfl

/-- Every position of a scan order lies in the image (42_scan_order R175). -/
theorem scanOrder_lt {mode : ScanMode} {W H k : Nat} (hk : k < W * H) :
    (scanOrder mode W H k).1 < W ∧ (scanOrder mode W H k).2 < H := by
  have hH : 0 < H := Nat.zero_lt_of_lt (row_lt hk)
  cases mode
  case vertical => exact ⟨row_lt (Nat.mul_comm W H ▸ hk), Nat.mod_lt k hH⟩
  case horizontalReverse => exact ⟨col_lt hk, (Nat.sub_le _ _).trans_lt (Nat.sub_one_lt hH.ne')⟩
  all_goals exact ⟨col_lt hk, row_lt hk⟩

/-- A function of the pixels in scan order depends on the pixels inside the image only. -/
theorem scanSeq_map_congr {α : Type} {g : Pixel → α} {img img' : Image} (hW : img'.W = img.W) (hH : img'.H = img.H)
    (h : ∀ i, i < img.W * img.H → g (img'.px i) = g (img.px i)) (mode : ScanMode) :
    (scanSeq mode img').map g = (scanSeq mode img).map g := by
  simp only [scanSeq, List.map_map, hW, hH]
  refine List.map_congr_left fun k hk => ?_
  obtain ⟨hx, hy⟩ := scanOrder_lt (mode := mode) (List.mem_range.mp hk)
  simp only [Function.comp_apply, Image.pixel, hW]
  exact h _ (row_major_lt hx hy)

/-! ### Sub-options -/

theorem pack_rgbOrder_ignored {f : Format} (h24 : f ≠ .color24bit) (h32 : f ≠ .color32bit) (c : ConfigRegs)
    (o : RgbOrder) (seq : List Pixel) :
    pack f { c with format := { c.format with rgbOrder := o } } seq = pack f c seq := by
  cases f
  case color24bit => exact absurd rfl h24
  case color32bit => exact absurd rfl h32
  all_goals rfl

theorem pack_v16_ignored {f : Format} (hf : f ≠ .color16bit) (c : ConfigRegs) (b : Bool) (seq : List Pixel) :
    pack f { c with format := { c.format with v16 := b } } seq = pack f c seq := by
  cases f
  case color16bit => exact absurd rfl hf
  all_goals rfl

theorem pack_p18_ignored {f : Format} (hf : f ≠ .color18bit) (c : ConfigRegs) (b : Bool) (seq : List Pixel) :
    pack f { c with format := { c.format with p18 := b } } seq = pack f c seq := by
  cases f
  case color18bit => exact absurd rfl hf
  all_goals rfl

theorem pack_l12_ignored {f : Format} (hf : f ≠ .color4096) (c : ConfigRegs) (b : Bool) (seq : List Pixel) :
    pack f { c with format := { c.format with l12 := b } } seq = pack f c seq := by
  cases f
  case color4096 => exact absurd rfl hf
  all_goals rfl

/-- Only color4096 has two layouts, so only there `L12` decides whether the scan mode is refused. -/
theorem effectiveMode_l12_ignored (p : Params) {f : Format} (hf : f ≠ .color4096) (c : ConfigRegs) (b : Bool) :
    effectiveMode p f { c with format := { c.format with l12 := b } } = effectiveMode p f c := by
  cases f
  case color4096 => exact absurd rfl hf
  all_goals rfl

end Sys2Proof.Machine

namespace Sys2Proof

open Machine

/-- Settles O37: a payload has the model's `payloadLength`, by the group size of a byte-aligned layout or by the bits of
a packed one. -/
theorem payloadLengths : Obligations.PayloadLengths := by
  unfold Obligations.PayloadLengths
  intro p f c img pay n hn hpay
  have hlen : pay.length = payloadLength f c.format.l12 n := hn ▸ payload_length hpay
  rw [hlen]
  refine ⟨?mono, ?gray4, ?gray16, ?packed12, ?group1, ?group2, ?group3, ?group4, payloadLength_le _ _ _⟩
  case mono | gray4 | gray16 => rintro rfl; exact payloadLength_of_packed rfl n
  case packed12 =>
    rintro rfl hl
    exact payloadLength_of_packed (by simp [groupBytes_color4096, hl]) n
  case group1 => rintro (rfl | rfl) <;> exact (payloadLength_of_group rfl n).trans (Nat.mul_one n)
  case group2 =>
    rintro (rfl | ⟨rfl, hl⟩)
    · exact payloadLength_of_group rfl n
    · exact payloadLength_of_group (by simp [groupBytes_color4096, hl]) n
  case group3 => rintro (rfl | rfl) <;> exact payloadLength_of_group rfl n
  case group4 => rintro rfl; exact payloadLength_of_group rfl n

/-- Settles O44: the two scan sequences agree once alpha is cleared, and the packer does not see the clearing. -/
theorem alphaReachesOnlyColor32 : Obligations.AlphaReachesOnlyColor32 := by
  unfold Obligations.AlphaReachesOnlyColor32
  intro p f c img img' hW hH hrgb hf
  refine payload_congr rfl fun mode => ?_
  have hseq : (scanSeq mode img').map Pixel.clearAlpha = (scanSeq mode img).map Pixel.clearAlpha :=
    scanSeq_map_congr hW hH (fun i hi => Pixel.clearAlpha_eq_of_rgb (hrgb i hi)) mode
  rw [← pack_map_clearAlpha hf c (scanSeq mode img'), hseq, pack_map_clearAlpha hf]

/-- Settles O43: neither the packer nor the effective scan mode reads a sub-option of another format. -/
theorem subOptionsOfOtherFormatsIgnored : Obligations.SubOptionsOfOtherFormatsIgnored := by
  unfold Obligations.SubOptionsOfOtherFormatsIgnored
  intro p f c img o b
  exact
    ⟨fun h24 h32 => payload_congr rfl fun _ => pack_rgbOrder_ignored h24 h32 c o _,
      fun hf => payload_congr rfl fun _ => pack_v16_ignored hf c b _,
      fun hf => payload_congr rfl fun _ => pack_p18_ignored hf c b _,
      fun hf => payload_congr (effectiveMode_l12_ignored p hf c b) fun _ => pack_l12_ignored hf c b _⟩

end Sys2Proof
end

section
/-! PROOF. Byte order on a byte list (42_scan_order R177, R181): where the bytes of a whole group and of the partial
tail go, and the involution that follows. -/

namespace Sys2Proof.Machine

@[simp] theorem applyByteOrder_msb (d : List Byte) (n : Nat) : applyByteOrder d .msb n = d := rfl

@[simp] theorem applyByteOrder_length (d : List Byte) (bo : ByteOrder) (n : Nat) :
    (applyByteOrder d bo n).length = d.length := by
  cases bo
  case msb => rfl
  case lsb => simp [applyByteOrder]

/-- In a whole group, byte `j` comes from the group's other end. -/
theorem applyByteOrder_lsb_group {d : List Byte} {n g j : Nat} (hg : g * n + n ≤ d.length) (hj : j < n) :
    (applyByteOrder d .lsb n)[g * n + j]? = d[g * n + (n - 1 - j)]? := by
  rw [applyByteOrder_lsb_getElem? d n _ (by omega), row_major_div hj, row_major_mod hj, if_pos hg]

/-- An index whose group passes the end of the list keeps its byte. -/
theorem applyByteOrder_lsb_tail {d : List Byte} {n i : Nat} (hn : 1 ≤ n) (hi : d.length < i / n * n + n) :
    (applyByteOrder d .lsb n)[i]? = d[i]? := by
  rw [applyByteOrder_lsb_getElem? d n i hn, if_neg (by omega)]

/-- Past the last whole group, the group of an index passes the end of the list. -/
theorem length_lt_group_end {len n i : Nat} (hn : 1 ≤ n) (hi : len / n * n ≤ i) : len < i / n * n + n := by
  have hq : len / n ≤ i / n := (Nat.le_div_iff_mul_le hn).mpr hi
  calc len < len / n * n + n := Nat.lt_div_mul_add hn
    _ ≤ i / n * n + n := Nat.add_le_add_right (Nat.mul_le_mul_right n hq) n

/-- Reversing the groups twice restores the data: `j ↦ n - 1 - j` is an involution of each whole group. -/
theorem applyByteOrder_lsb_lsb (d : List Byte) {n : Nat} (hn : 1 ≤ n) :
    applyByteOrder (applyByteOrder d .lsb n) .lsb n = d := by
  refine List.ext_getElem? fun i => ?_
  by_cases hg : i / n * n + n ≤ d.length
  · have hj : i % n < n := Nat.mod_lt i hn
    have hback : n - 1 - (n - 1 - i % n) = i % n := by omega
    rw [← row_major_self n i, applyByteOrder_lsb_group (by simpa using hg) hj,
      applyByteOrder_lsb_group hg (by omega), hback]
  · have htail : d.length < i / n * n + n := Nat.lt_of_not_le hg
    rw [applyByteOrder_lsb_tail hn (by simpa using htail), applyByteOrder_lsb_tail hn htail]

end Sys2Proof.Machine

namespace Sys2Proof

open Machine

/-- Settles O39: each clause is a law of `applyByteOrder`; past the last whole group every index is in the tail. -/
theorem applyByteOrderLaws : Obligations.ApplyByteOrderLaws := by
  unfold Obligations.ApplyByteOrderLaws
  intro d n hn
  exact
    ⟨applyByteOrder_msb d n, applyByteOrder_lsb_lsb d hn, applyByteOrder_length d .lsb n,
      fun _ _ hg hj => applyByteOrder_lsb_group hg hj,
      fun _ hi => applyByteOrder_lsb_tail hn (length_lt_group_end hn hi)⟩

end Sys2Proof
end

section
/-! PROOF. The control commands NOP and SRESET (44_pipeline R216, R217): the state each leaves, and how its registers
read. -/

namespace Sys2Proof.Machine

theorem exec_nop (s : State) : exec .nop s = .next s.completeOk := rfl

theorem exec_sreset (s : State) : exec .sreset s = .next s.softReset := rfl

/-- The word `0x2` of R217: STATUS with DONE alone, on an idle engine. -/
theorem State.statusWord_of_done_only {s : State} (hstatus : s.status = Status.afterSoftReset)
    (hidle : s.pending = none) : s.statusWord = 0x00000002#32 := by
  unfold State.statusWord State.busy
  rw [hstatus, hidle]
  decide

/-- The reset values of 10_state R45 read as 0: every field that FORMAT to RES_INFO are made of has the code 0. -/
theorem State.readReg_eq_zero {s : State} (hW : s.frameW = 0#16) (hH : s.frameH = 0#16)
    (hcfg : s.cfg = ConfigRegs.zero) (hresult : s.result = ResultRegs.zero) {r : RegName} (hid : r ≠ .id)
    (hstatus : r ≠ .status) : s.readReg r = 0#32 := by
  cases r
  case id => exact absurd rfl hid
  case status => exact absurd rfl hstatus
  case cmd => rfl
  case frameW => rw [State.readReg, hW]; rfl
  case frameH => rw [State.readReg, hH]; rfl
  case resW | resH | payLen | outLen | resInfo => rw [State.readReg, hresult]; rfl
  all_goals rw [State.readReg, hcfg]; rfl

/-- What SRESET leaves apart from a hardware reset: DONE, the RAMs, the reset input, and the epoch that names the RAMs'
contents (44_pipeline R217). -/
theorem State.softReset_eq_hardReset (s : State) :
    { s.softReset with
      status := { s.softReset.status with done := false }
      frame := []
      palette := []
      output := []
      inReset := false
      powerOnEpoch := s.powerOnEpoch + 1 } = s.hardReset := rfl

end Sys2Proof.Machine

namespace Sys2Proof

open Machine

/-- Settles O14: SRESET leaves `softReset`, whose registers have their reset values and whose STATUS is DONE alone. -/
theorem softResetCompletes : Obligations.SoftResetCompletes := by
  unfold Obligations.SoftResetCompletes
  refine ⟨by decide, fun s => ⟨s.softReset, exec_sreset s, ?registers, rfl, ?status, rfl, rfl, rfl, rfl, ?environment,
    s.softReset_eq_hardReset⟩⟩
  case registers =>
    exact fun r hid hstatus =>
      State.readReg_eq_zero s.softReset_frameW s.softReset_frameH s.softReset_cfg s.softReset_result hid hstatus
  case status => exact State.statusWord_of_done_only s.softReset_status s.softReset_pending
  case environment => simp [SameEnvironment]

/-- Settles O13: NOP leaves `completeOk`, which writes STATUS, PENDING and the engine's countdown only; from reset the
STATUS it writes is DONE alone. -/
theorem nopCompletes : Obligations.NopCompletes := by
  unfold Obligations.NopCompletes
  refine ⟨by decide, exec_nop, State.reset.completeOk, exec_nop State.reset, ?_⟩
  exact State.statusWord_of_done_only rfl State.reset.completeOk_pending

end Sys2Proof
end

section
/-! PROOF. The decoder (30_encoding R80 to R83, 60_exceptions R230): which words decode, and what a due completion does
with one that does and with one that does not. -/

namespace Sys2Proof

/-! ### The decoder as equivalences -/

theorem ofOpcode_opcode (i : Instr) : ofOpcode (opcode i) = some i := by cases i <;> rfl

/-- The opcode table is one to one: an opcode names a command only by being that command's. -/
theorem ofOpcode_eq_some_iff {opc : Byte} {i : Instr} : ofOpcode opc = some i ↔ opc = opcode i := by
  constructor
  · intro h
    unfold ofOpcode at h
    split at h <;> cases h <;> exact BitVec.eq_of_toNat_eq (by assumption)
  · rintro rfl
    exact ofOpcode_opcode i

theorem decode_eq_ok_iff {w : Word} {i : Instr} :
    decode w = .ok i ↔ w.extractLsb' 8 24 = 0#24 ∧ w.extractLsb' 0 8 = opcode i := by
  rw [← ofOpcode_eq_some_iff, decode]
  split
  · next hr => cases ofOpcode (w.extractLsb' 0 8) <;> simp [hr]
  · next hr => simp [hr]

/-- A word is its reserved field above its opcode field (30_encoding R80). -/
theorem word_eq_append_iff {w : Word} {r : BitVec 24} {o : Byte} :
    w = r ++ o ↔ w.extractLsb' 8 24 = r ∧ w.extractLsb' 0 8 = o := by
  have hw := w.isLt
  have ho := o.isLt
  simp only [← BitVec.toNat_inj, Machine.toNat_append_eq, BitVec.extractLsb'_toNat, Nat.shiftRight_eq_div_pow]
  omega

/-- A word that is no command's word is refused (30_encoding R81). -/
theorem decode_error_of_illegal {w : Word}
    (h : w.extractLsb' 8 24 ≠ 0#24 ∨ ∀ i : Instr, w.extractLsb' 0 8 ≠ opcode i) : ∃ e, decode w = .error e := by
  cases hd : decode w with
  | error e => exact ⟨e, rfl⟩
  | ok i =>
    obtain ⟨hr, ho⟩ := decode_eq_ok_iff.mp hd
    exact (h.elim (absurd hr) fun hn => absurd ho (hn i))

/-! ### A completion -/

theorem Machine.State.engineEvent_of_ok {s : Machine.State} {w : Word} {i : Instr} (h : decode w = .ok i) :
    s.engineEvent w = Machine.exec i s := by
  simp [Machine.State.engineEvent, h]

theorem Machine.State.engineEvent_of_error {s : Machine.State} {w : Word} {e : DecodeError}
    (h : decode w = .error e) : s.engineEvent w = .next (s.completeError .illegalCommand) := by
  simp [Machine.State.engineEvent, h]

open Machine

/-- Settles O2: the two fields of a word that decodes are those of the command's word. -/
theorem decodeEncodeAgree : Obligations.DecodeEncodeAgree := by
  unfold Obligations.DecodeEncodeAgree
  intro w i
  rw [decode_eq_ok_iff, encode, word_eq_append_iff]

/-- Settles O1: each word of the table is its command's word. -/
theorem tableWordsDecode : Obligations.TableWordsDecode := by
  unfold Obligations.TableWordsDecode
  have hword : ∀ i : Instr, decode (encode i) = .ok i := fun i => (decodeEncodeAgree _ i).mpr rfl
  exact ⟨hword .nop, hword .sreset, hword .resize, hword .rotate, hword .mirror, hword .adjBright, hword .adjContrast,
    hword .invert, hword .ditherFs, hword .ditherBayer, hword .preprocess, hword .encode, hword .convert⟩

/-- Settles O3: a due completion is the engine's event, and that is the decoded command. -/
theorem stepRunsDecodedCommand : Obligations.StepRunsDecodedCommand := by
  unfold Obligations.StepRunsDecodedCommand
  intro s w i hr hp hq hd
  rw [step_due hr hp hq, State.engineEvent_of_ok hd]

/-- Settles O4: the decoder refuses the illegal words, and the completion of a refused word raises IllegalCommand. -/
theorem illegalWordsRaiseIllegalCommand : Obligations.IllegalWordsRaiseIllegalCommand := by
  unfold Obligations.IllegalWordsRaiseIllegalCommand
  intro s w hr hp hq
  constructor
  · intro hill
    obtain ⟨e, he⟩ := decode_error_of_illegal hill
    rw [step_due hr hp hq, State.engineEvent_of_error he, State.completeError_eq]
    rfl
  · intro i hres hopc
    exact stepRunsDecodedCommand s w i hr hp hq (decode_eq_ok_iff.mpr ⟨hres, hopc⟩)

end Sys2Proof
end

section
/-! PROOF. The host's accesses (20_memory R60 to R73, 70_reset R250, R257, R258): everything a write to an offset can do
and everything an event of the environment can do, each said once; acceptance, accesses, bus errors and the reset input
follow. -/

namespace Sys2Proof.Machine

/-! ### Offsets -/

theorem regOffset_of_regAt {off : Nat} {r : RegName} (h : regAt off = some r) : off = regOffset r := by
  unfold regAt at h
  split at h <;> cases h <;> rfl

theorem bounds_of_regionOf_palette {off : Nat} (h : regionOf off = .palette) : 0x400 ≤ off ∧ off < 0x700 := by
  unfold regionOf at h
  split_ifs at h
  omega

theorem State.writeWord_regOffset (s : State) (r : RegName) (w : Word) :
    s.writeWord (regOffset r) w = s.writeReg r w := by
  simp [State.writeWord, regionOf_regOffset, regAt_regOffset]

theorem State.readWord_regOffset (s : State) (u : Word) (r : RegName) : s.readWord u (regOffset r) = s.readReg r := by
  simp [State.readWord, regionOf_regOffset, regAt_regOffset]

/-! ### What a write can do -/

theorem State.busy_iff {s : State} : s.busy = true ↔ s.pending ≠ none := by
  rw [State.busy, Option.isSome_iff_ne_none]

theorem State.busy_eq_true {s : State} (hbusy : s.pending ≠ none) : s.busy = true := State.busy_iff.mpr hbusy

/-- Everything `MemWrite(off, 4, w)` can do (20_memory R63 to R67, 44_pipeline R211, 70_reset R257, R258). -/
inductive State.WriteEffect (s : State) (off : Nat) (w : Word) : State → Prop
  /-- a read-only register, a reserved offset, the output window, or a frame offset past MAX_PIXELS -/
  | ignored : State.WriteEffect s off w s
  | dropped (hbusy : s.pending ≠ none) : State.WriteEffect s off w s.dropWrite
  | overrun (hoff : off = regOffset .cmd) (hbusy : s.pending ≠ none) :
    State.WriteEffect s off w { s with status := s.status.onOverrun }
  | accepted (hoff : off = regOffset .cmd) (hidle : s.pending = none) : State.WriteEffect s off w (s.accept w)
  | cleared (hoff : off = regOffset .status) :
    State.WriteEffect s off w { s with status := s.status.writeOneToClear w }
  | register (r : RegName) (hidle : s.pending = none) : State.WriteEffect s off w (s.storeReg r w)
  | palette (m : Nat) (hm : m < 192) (hidle : s.pending = none) : State.WriteEffect s off w (s.storePalette m w)
  | frame (i : Nat) (hi : i < s.params.maxPixels) (hidle : s.pending = none) :
    State.WriteEffect s off w (s.storeFrame i w)

/-- What a write to a register can do (10_state R24, R44, 44_pipeline R211, 70_reset R257, R258). -/
theorem State.writeReg_effect (s : State) (r : RegName) (w : Word) :
    s.WriteEffect (regOffset r) w (s.writeReg r w) := by
  by_cases hp : s.pending = none
  · have hb : s.busy = false := State.busy_eq_false hp
    cases r <;> simp only [State.writeReg, State.writeCmd, isConfigReg, hb, if_true, if_false, Bool.false_eq_true]
    case cmd => exact .accepted rfl hp
    case status => exact .cleared rfl
    case id | resW | resH | payLen | outLen | resInfo => exact .ignored
    all_goals exact .register _ hp
  · have hb : s.busy = true := State.busy_eq_true hp
    cases r <;> simp only [State.writeReg, State.writeCmd, isConfigReg, hb, if_true, if_false, Bool.false_eq_true]
    case cmd => exact .overrun rfl hp
    case status => exact .cleared rfl
    case id | resW | resH | payLen | outLen | resInfo => exact .ignored
    all_goals exact .dropped hp

theorem State.writeWord_effect (s : State) (off : Nat) (w : Word) : s.WriteEffect off w (s.writeWord off w) := by
  have drop_or {t : State} (hstore : s.pending = none → s.WriteEffect off w t) :
      s.WriteEffect off w (if s.busy then s.dropWrite else t) := by
    split
    · next hb => exact .dropped (State.busy_iff.mp hb)
    · next hb => exact hstore (by simpa [State.busy] using hb)
  unfold State.writeWord
  split
  · split
    · next hr => exact regOffset_of_regAt hr ▸ s.writeReg_effect _ w
    · exact .ignored
  · next hreg =>
    obtain ⟨hlo, hhi⟩ := bounds_of_regionOf_palette hreg
    exact drop_or (.palette _ (by unfold paletteBase; omega))
  · split
    · next hi => exact drop_or (.frame _ hi)
    · exact .ignored
  · exact .ignored
  · exact .ignored

/-- A busy block takes no write beyond STATUS (70_reset R257, R258). -/
theorem State.WriteEffect.busy {s t : State} {off : Nat} {w : Word} (h : s.WriteEffect off w t)
    (hbusy : s.pending ≠ none) : ∃ st : Status, t = { s with status := st } := by
  cases h with
  | ignored => exact ⟨s.status, rfl⟩
  | dropped | overrun | cleared => exact ⟨_, rfl⟩
  | accepted _ hidle | register _ hidle | palette _ _ hidle | frame _ _ hidle => exact absurd hidle hbusy

/-! ### What an event of the environment can do -/

/-- The events of the environment the block performs, and the state each leaves (20_memory R71, R73, 30_encoding R91,
70_reset R250). -/
inductive State.HostEffect (s : State) (rest : List HostEvent) : HostEvent → State → Prop
  | read {addr width off : Nat} (hoff : accessOffset s.params addr width = .ok off) :
    State.HostEffect s rest (.read addr width) (s.doRead rest off)
  | write {addr width off : Nat} {w : Word} {t : State} (hoff : accessOffset s.params addr width = .ok off)
      (hreset : s.inReset = false) (heffect : (s.popEvent rest).WriteEffect off w t) :
    State.HostEffect s rest (.write addr width w) t
  | writeInReset {addr width : Nat} {w : Word} (hreset : s.inReset = true) :
    State.HostEffect s rest (.write addr width w) (s.popEvent rest)
  | wait : State.HostEffect s rest .wait (s.doWait rest)
  | resetAssert : State.HostEffect s rest .resetAssert { s.popEvent rest with inReset := true }
  | resetRelease (hreset : s.inReset = true) : State.HostEffect s rest .resetRelease (s.popEvent rest).hardReset
  | resetReleaseIdle (hreset : s.inReset = false) : State.HostEffect s rest .resetRelease (s.popEvent rest)

section

variable {s : State} {rest : List HostEvent} {addr width off : Nat} {w : Word}

theorem State.hostEvent_read (h : accessOffset s.params addr width = .ok off) :
    s.hostEvent (.read addr width) rest = .next (s.doRead rest off) := by
  simp [State.hostEvent, h]

theorem State.hostEvent_write (h : accessOffset s.params addr width = .ok off) :
    s.hostEvent (.write addr width w) rest = .next (s.doWrite rest off w) := by
  simp [State.hostEvent, h]

theorem State.hostEvent_read_fault {f : Fault} (h : accessOffset s.params addr width = .error f) :
    s.hostEvent (.read addr width) rest = .fault f := by
  simp [State.hostEvent, h]

theorem State.hostEvent_write_fault {f : Fault} (h : accessOffset s.params addr width = .error f) :
    s.hostEvent (.write addr width w) rest = .fault f := by
  simp [State.hostEvent, h]

theorem State.doWrite_of_reset (h : s.inReset = true) : s.doWrite rest off w = s.popEvent rest := by
  simp [State.doWrite, h]

theorem State.doWrite_of_running (h : s.inReset = false) :
    s.doWrite rest off w = (s.popEvent rest).writeWord off w := by
  simp [State.doWrite, h]

end

theorem State.hostEvent_effect {s t : State} {e : HostEvent} {rest : List HostEvent}
    (h : s.hostEvent e rest = .next t) : s.HostEffect rest e t := by
  cases e with
  | read addr width =>
    cases ha : accessOffset s.params addr width with
    | error f => rw [State.hostEvent_read_fault ha] at h; cases h
    | ok off => rw [State.hostEvent_read ha] at h; cases h; exact .read ha
  | write addr width w =>
    cases ha : accessOffset s.params addr width with
    | error f => rw [State.hostEvent_write_fault ha] at h; cases h
    | ok off =>
      rw [State.hostEvent_write ha] at h
      cases h
      cases hr : s.inReset with
      | true => exact State.doWrite_of_reset hr ▸ .writeInReset hr
      | false => exact State.doWrite_of_running hr ▸ .write ha hr ((s.popEvent rest).writeWord_effect off w)
  | wait => cases h; exact .wait
  | resetAssert => cases h; exact .resetAssert
  | resetRelease =>
    cases h
    split
    · next hr => exact .resetRelease hr
    · next hr => exact .resetReleaseIdle (by simpa using hr)

/-- An event answers a next state exactly when it is legal (20_memory R60, R62). -/
theorem State.hostEvent_next {s : State} {e : HostEvent} (rest : List HostEvent) (h : eventLegal s.params e = true) :
    ∃ t, s.hostEvent e rest = .next t := by
  cases e with
  | read addr width =>
    cases ha : accessOffset s.params addr width with
    | error f => simp [eventLegal, ha] at h
    | ok off => exact ⟨_, State.hostEvent_read ha⟩
  | write addr width w =>
    cases ha : accessOffset s.params addr width with
    | error f => simp [eventLegal, ha] at h
    | ok off => exact ⟨_, State.hostEvent_write ha⟩
  | wait | resetAssert | resetRelease => exact ⟨_, rfl⟩

/-- What no write touches: parameters and what the host still does (20_memory R73). -/
theorem State.WriteEffect.env {s t : State} {off : Nat} {w : Word} (h : s.WriteEffect off w t) :
    t.params = s.params ∧ t.hostQueue = s.hostQueue ∧ t.inReset = s.inReset := by
  cases h <;> simp

/-- An event is used up, but for a `WAIT` that polls again (30_encoding R91); parameters stay. -/
theorem State.HostEffect.env {s t : State} {e : HostEvent} {rest : List HostEvent} (h : s.HostEffect rest e t) :
    t.params = s.params ∧ (t.hostQueue = rest ∨ t.hostQueue = s.hostQueue) := by
  cases h with
  | write _ _ heffect =>
    obtain ⟨hparams, hqueue, _⟩ := heffect.env
    exact ⟨hparams, .inl hqueue⟩
  | wait =>
    refine ⟨rfl, ?_⟩
    simp only [State.doWait]
    split <;> simp
  | _ => simp

/-- What a busy block outside reset keeps while the host acts (44_pipeline R214, 70_reset R257, R258): PENDING and the
reset input; the event counts as one of those before the completion (log entry 4). -/
theorem State.HostEffect.busy {s t : State} {e : HostEvent} {rest : List HostEvent} (h : s.HostEffect rest e t)
    (hbusy : s.pending ≠ none) (hreset : s.inReset = false) (hkeeps : keepsReset e = true) :
    t.pending = s.pending ∧ t.inReset = false ∧ t.delayLeft = s.delayLeft - 1 := by
  cases h with
  | read => exact ⟨rfl, hreset, rfl⟩
  | write _ _ heffect =>
    obtain ⟨st, rfl⟩ := heffect.busy hbusy
    exact ⟨rfl, hreset, rfl⟩
  | writeInReset => exact ⟨rfl, hreset, rfl⟩
  | wait => exact ⟨rfl, hreset, rfl⟩
  | resetAssert | resetRelease | resetReleaseIdle => cases hkeeps

/-- The rest of a legal queue is legal, and so is the queue a `WAIT` leaves as it was. -/
theorem State.HostEffect.all_queue {s t : State} {e : HostEvent} {rest : List HostEvent} (h : s.HostEffect rest e t)
    (hq : s.hostQueue = e :: rest) {p : HostEvent → Bool} (hall : s.hostQueue.all p = true) :
    t.hostQueue.all p = true := by
  rcases h.env.2 with hqueue | hqueue <;> rw [hqueue]
  · rw [hq, List.all_cons, Bool.and_eq_true] at hall
    exact hall.2
  · exact hall

/-- A legal event of the environment is performed, and what the host still does stays legal. -/
theorem State.hostEvent_legal {s : State} {e : HostEvent} {rest : List HostEvent} (hq : s.hostQueue = e :: rest)
    (hlegal : s.HostLegal) : ∃ t, s.hostEvent e rest = .next t ∧ s.HostEffect rest e t ∧ t.HostLegal := by
  have he : eventLegal s.params e = true := by
    rw [State.HostLegal, hq, List.all_cons, Bool.and_eq_true] at hlegal
    exact hlegal.1
  obtain ⟨t, hrun⟩ := State.hostEvent_next rest he
  have heffect := State.hostEvent_effect hrun
  refine ⟨t, hrun, heffect, ?_⟩
  rw [State.HostLegal, heffect.env.1]
  exact heffect.all_queue hq hlegal

/-! ### Progress -/

/-- A busy block completes at its next step once no host event is left before the completion (70_reset R260). -/
theorem step_completes {s : State} {w : Word} (hp : s.pending = some w) (hreset : s.inReset = false)
    (hdue : s.hostQueue = [] ∨ s.delayLeft = 0) :
    ∃ t, step s = .next t ∧ t.pending = none ∧ t.inReset = false ∧ t.hostQueue = s.hostQueue := by
  obtain ⟨t, hrun, hdone, _, hr, hq, _⟩ := s.engineEvent_frame w
  exact ⟨t, (step_due hreset hp hdue).trans hrun, hdone, hr.trans hreset, hq⟩

/-- One host event on a busy block: the pending word stays, and one event fewer is left before its completion. -/
theorem step_counts_down {s : State} {e : HostEvent} {rest : List HostEvent} (hq : s.hostQueue = e :: rest)
    (hbusy : s.pending ≠ none) (hreset : s.inReset = false) (hdelay : s.delayLeft ≠ 0) (hlegal : s.HostLegal)
    (hkeeps : s.hostQueue.all keepsReset = true) :
    ∃ t, step s = .next t ∧ t.pending = s.pending ∧ t.inReset = false ∧ t.delayLeft = s.delayLeft - 1 ∧ t.HostLegal
      ∧ t.hostQueue.all keepsReset = true := by
  obtain ⟨t, hrun, heffect, hlegalt⟩ := State.hostEvent_legal hq hlegal
  have he : keepsReset e = true := by
    rw [hq, List.all_cons, Bool.and_eq_true] at hkeeps
    exact hkeeps.1
  obtain ⟨hpt, hrt, hdt⟩ := heffect.busy hbusy hreset he
  exact ⟨t, (step_host hq (.inr (.inr hdelay))).trans hrun, hpt, hrt, hdt, hlegalt, heffect.all_queue hq hkeeps⟩

/-- A poll of `WAIT` outside reset goes on when the block is idle, and polls again when it is busy (30_encoding R91). -/
theorem State.doWait_eq {s : State} (hreset : s.inReset = false) (rest : List HostEvent) :
    s.doWait rest = { s.popEvent (if s.busy then s.hostQueue else rest) with draws := s.draws + 1 } := by
  have hread : s.busRead (regOffset .status) = s.statusWord := by
    rw [State.busRead, if_neg (by simp [hreset]), State.readWord_regOffset]
    rfl
  simp only [State.doWait, hread, statusWord_busy]

theorem State.statusWord_of_zero {s : State} (hstatus : s.status = Status.zero) (hidle : s.pending = none) :
    s.statusWord = 0#32 := by
  unfold State.statusWord State.busy
  rw [hstatus, hidle]
  decide

/-! ### The offset of an access -/

theorem accessOffset_inside {p : Params} {addr : Nat} (width : Nat) (hlo : p.base ≤ addr)
    (hhi : addr < p.base + 16777216) :
    accessOffset p addr width
      = if width ≠ 4 ∨ (addr - p.base) % 4 ≠ 0 then .error (.busError addr width) else .ok (addr - p.base) := by
  unfold accessOffset windowBytes
  rw [if_neg (by omega)]

end Sys2Proof.Machine

namespace Sys2Proof

open Machine

/-- Settles O5: a CMD write is `writeCmd`, which accepts on an idle block and counts an overrun on a busy one. -/
theorem commandWriteIsAccepted : Obligations.CommandWriteIsAccepted := by
  unfold Obligations.CommandWriteIsAccepted
  intro s rest w hreset hq
  have hrun (hdue : s.pending = none ∨ s.delayLeft ≠ 0) : step s = .next ((s.popEvent rest).writeCmd w) := by
    have hoff := accessOffset_hostAddress s.params 0x04 (by decide) (by decide)
    rw [step_host hq (.inr hdue), State.hostEvent_write hoff, State.doWrite_of_running hreset]
    exact congrArg Host.Outcome.next (State.writeWord_regOffset _ .cmd w)
  constructor
  · intro hidle
    have haccept : (s.popEvent rest).writeCmd w = (s.popEvent rest).accept w := by
      simp [State.writeCmd, State.busy, hidle]
    refine ⟨(s.popEvent rest).accept w, haccept ▸ hrun (.inl hidle), State.accept_pending _ w,
      State.busy_eq_true (by simp), State.accept_status _ w, ?_⟩
    unfold State.accept
    split <;> rfl
  · intro hbusy hdelay
    have hoverrun : (s.popEvent rest).busy = true := State.busy_eq_true hbusy
    rw [hrun (.inr hdelay), State.writeCmd, if_pos hoverrun]
    rfl

/-- Settles O51: both accesses are the environment's event, and a read's state differs in the log and the counters. -/
theorem hostAccessesArePerformed : Obligations.HostAccessesArePerformed := by
  unfold Obligations.HostAccessesArePerformed
  intro s rest addr off w hreset hdue hoff
  constructor
  · intro hq
    refine ⟨s.doRead rest off, by rw [step_host hq (.inr hdue), State.hostEvent_read hoff], ?_, rfl⟩
    simp [State.busRead, hreset]
  · intro hq
    rw [step_host hq (.inr hdue), State.hostEvent_write hoff, State.doWrite_of_running hreset]

/-- Settles O52: inside the window the width and the alignment alone decide between a bus error and an offset. -/
theorem misalignedOrNarrowAccessIsBusError : Obligations.MisalignedOrNarrowAccessIsBusError := by
  unfold Obligations.MisalignedOrNarrowAccessIsBusError
  intro s rest addr width w hdue hlo hhi hq
  have hoff := accessOffset_inside width hlo hhi
  constructor
  · intro hbad
    rw [if_pos hbad] at hoff
    rcases hq with hq | hq
    · rw [step_host hq hdue, State.hostEvent_read_fault hoff]
    · rw [step_host hq hdue, State.hostEvent_write_fault hoff]
  · intro hwidth halign
    rw [if_neg (by omega)] at hoff
    rcases hq with hq | hq
    · exact ⟨_, by rw [step_host hq hdue, State.hostEvent_read hoff]⟩
    · exact ⟨_, by rw [step_host hq hdue, State.hostEvent_write hoff]⟩

/-- Settles O11: a completion keeps the host's queue, and a legal event is performed and leaves a part of it. -/
theorem legalHostProgramNeverFaults : Obligations.LegalHostProgramNeverFaults := by
  unfold Obligations.LegalHostProgramNeverFaults
  intro s hlegal
  rcases step_cases s with ⟨_, _, hstep⟩ | ⟨w, _, _, _, hstep⟩ | ⟨e, rest, hq, _, hstep⟩
  · exact ⟨s, hstep, hlegal⟩
  · obtain ⟨t, hrun, _, hparams, _, hqueue, _⟩ := s.engineEvent_frame w
    refine ⟨t, hstep.trans hrun, ?_⟩
    rwa [State.HostLegal, hparams, hqueue]
  · obtain ⟨t, hrun, _, hlegalt⟩ := State.hostEvent_legal hq hlegal
    exact ⟨t, hstep.trans hrun, hlegalt⟩

/-- Settles O7, by induction on the host events left before the completion: one more leaves PENDING full and one fewer,
and when none is left the engine completes. -/
theorem acceptedCommandCompletes : Obligations.AcceptedCommandCompletes := by
  unfold Obligations.AcceptedCommandCompletes
  intro s w hp hreset hlegal hkeeps
  generalize hn : s.delayLeft = n
  induction n generalizing s with
  | zero =>
    obtain ⟨t, hstep, hdone, _⟩ := step_completes hp hreset (.inr hn)
    exact ⟨1, by omega, t, run_succ hstep, hdone⟩
  | succ n ih =>
    cases hq : s.hostQueue with
    | nil =>
      obtain ⟨t, hstep, hdone, _⟩ := step_completes hp hreset (.inl hq)
      exact ⟨1, by omega, t, run_succ hstep, hdone⟩
    | cons e rest =>
      obtain ⟨t, hstep, hpt, hrt, hdt, hlegalt, hkeepst⟩ :=
        step_counts_down hq (by simp [hp]) hreset (by omega) hlegal hkeeps
      obtain ⟨k, hk, u, hrun, hdone⟩ := ih t (hpt.trans hp) hrt hlegalt hkeepst (by omega)
      exact ⟨k + 1, by omega, u, (run_succ hstep).trans hrun, hdone⟩

/-- Settles O8, by induction on the polls before the completion: each leaves the loop as it is, and the poll after the
completion reads BUSY 0. -/
theorem waitLoopEnds : Obligations.WaitLoopEnds := by
  unfold Obligations.WaitLoopEnds
  intro s w rest hp hreset hq
  generalize hn : s.delayLeft = n
  induction n generalizing s with
  | zero =>
    obtain ⟨t, hstep, hidle, hrt, hqt⟩ := step_completes hp hreset (.inr hn)
    have hpoll : step t = .next (t.doWait rest) := step_host (hqt.trans hq) (.inr (.inl hidle))
    refine ⟨t.doWait rest, (run_succ hstep).trans (run_succ hpoll), ?_, hidle⟩
    simp [State.doWait_eq hrt, State.busy_eq_false hidle]
  | succ n ih =>
    have hbusy : s.pending ≠ none := by simp [hp]
    have hpoll : step s = .next (s.doWait rest) := step_host hq (.inr (.inr (by omega)))
    have hqt : (s.doWait rest).hostQueue = .wait :: rest := by
      simp [State.doWait_eq hreset, State.busy_eq_true hbusy, hq]
    obtain ⟨t, hrun, hqt', hdone⟩ := ih (s.doWait rest) hp hreset hqt (by rw [State.doWait]; simp [hn])
    exact ⟨t, (run_succ hpoll).trans hrun, hqt', hdone⟩

/-- Settles O60: in reset a write only uses up its event; the release is `hardReset`, whose registers have their reset
values and whose RAMs hold nothing written. -/
theorem hardwareReset : Obligations.HardwareReset := by
  unfold Obligations.HardwareReset
  intro s rest hreset
  constructor
  · intro addr off w hq hoff
    rw [step_host hq (.inl hreset), State.hostEvent_write hoff, State.doWrite_of_reset hreset]
  · intro hq
    have hstep : step s = .next (s.popEvent rest).hardReset := by
      rw [step_host hq (.inl hreset), State.hostEvent, if_pos hreset]
    refine ⟨_, hstep, rfl, rfl, fun r hid => ?_, rfl, fun k => rfl, fun k => rfl, fun k => rfl⟩
    by_cases hr : r = .status
    · rw [hr]
      exact State.statusWord_of_zero rfl rfl
    · exact State.readReg_eq_zero rfl rfl rfl rfl hid hr

end Sys2Proof
end

section
/-! PROOF. What a completion can do (44_pipeline R212 to R223, 60_exceptions R233), said once for all thirteen commands:
it fails, is NOP or SRESET, writes the frame, or writes the output. Failures, the frames of the stage commands, and the
sticky bits follow. -/

namespace Sys2Proof.Machine

/-! ### Dimensions that only shrink -/

/-- `out` is not larger than `img`: a nonempty image with no more pixels, whose dimensions stay within those of `img`
taken in either order (40_preprocess R124; a rotation swaps them). -/
structure Image.Shrinks (img out : Image) : Prop where
  width_pos : 1 ≤ out.W
  height_pos : 1 ≤ out.H
  area_le : out.W * out.H ≤ img.W * img.H
  width_le : out.W ≤ max img.W img.H
  height_le : out.H ≤ max img.W img.H

section

variable {img out : Image}

theorem Image.Shrinks.of_le (hW : 1 ≤ out.W) (hH : 1 ≤ out.H) (hWle : out.W ≤ img.W) (hHle : out.H ≤ img.H) :
    img.Shrinks out :=
  ⟨hW, hH, Nat.mul_le_mul hWle hHle, le_max_of_le_left hWle, le_max_of_le_right hHle⟩

theorem Image.Shrinks.of_eq (hW : 1 ≤ img.W) (hH : 1 ≤ img.H) (hWeq : out.W = img.W) (hHeq : out.H = img.H) :
    img.Shrinks out :=
  .of_le (hWeq ▸ hW) (hHeq ▸ hH) hWeq.le hHeq.le

theorem shrinks_rotate (hW : 1 ≤ img.W) (hH : 1 ≤ img.H) (k : BitVec 2) : img.Shrinks (rotate img k) := by
  rcases rotate_dims img k with ⟨hw, hh⟩ | ⟨hw, hh⟩
  · exact .of_eq hW hH hw hh
  · exact ⟨hw ▸ hH, hh ▸ hW, by rw [hw, hh, Nat.mul_comm], hw ▸ le_max_right .., hh ▸ le_max_left ..⟩

end

/-! ### The operations of the commands -/

/-- The operation a stage command runs on the frame (40_preprocess R106 to R123); the other commands run none. -/
def stageOp (c : ConfigRegs) (i : Instr) (img : Image) : Except CmdError Image :=
  match i with
  | .resize => resize img c.maxW.toNat c.maxH.toNat
  | .rotate => .ok (rotate img c.preCtrl.rot)
  | .mirror => .ok (mirror img c.preCtrl.mirrorH c.preCtrl.mirrorV)
  | .adjBright => .ok (bright img c.brightnessValue)
  | .adjContrast => .ok (contrast img c.contrastValue)
  | .invert => .ok (invert img)
  | .ditherFs => .ok (ditherFs img)
  | .ditherBayer => .ok (ditherBayer img)
  | .preprocess => preprocess c img
  | .nop | .sreset | .encode | .convert => .ok img

theorem exec_stage {i : Instr} (hi : isStage i = true) (s : State) :
    exec i s = .next (s.runStage (stageOp s.cfg i)) := by
  cases i
  case nop | sreset | encode | convert => cases hi
  all_goals rfl

/-- The operation ENCODE and CONVERT run on their own copy of the frame (44_pipeline R218, R219). -/
def outputOp (c : ConfigRegs) (i : Instr) (img : Image) : Except CmdError Image :=
  match i with
  | .convert => preprocess c img
  | _ => .ok img

theorem exec_output {i : Instr} (hi : i = .encode ∨ i = .convert) (s : State) :
    exec i s = .next (s.runEncode (outputOp s.cfg i)) := by
  rcases hi with rfl | rfl <;> rfl

section

variable {c : ConfigRegs} {i : Instr} {img out : Image}

theorem shrinks_of_preprocess (hW : 1 ≤ img.W) (hH : 1 ≤ img.H) (h : preprocess c img = .ok out) :
    img.Shrinks out := by
  obtain ⟨hw, hh, harea, hwle, hhle⟩ := preprocess_dims hW hH h
  exact ⟨hw, hh, harea, hwle, hhle⟩

/-- Only RESIZE, ROTATE and PREPROCESS change dimensions (44_pipeline R226). -/
theorem stageOp_keeps_dims (hr : i ≠ .resize) (ht : i ≠ .rotate) (hp : i ≠ .preprocess)
    (h : stageOp c i img = .ok out) : out.W = img.W ∧ out.H = img.H := by
  cases i
  case resize => exact absurd rfl hr
  case rotate => exact absurd rfl ht
  case preprocess => exact absurd rfl hp
  all_goals
    cases h
    exact ⟨rfl, rfl⟩

/-- No stage enlarges an image (40_preprocess R124). -/
theorem shrinks_of_stageOp (hW : 1 ≤ img.W) (hH : 1 ≤ img.H) (h : stageOp c i img = .ok out) : img.Shrinks out := by
  by_cases hr : i = .resize
  · subst hr
    obtain ⟨_, _, hw, hh, hwle, hhle⟩ := resize_dims hW hH h
    exact .of_le hw hh hwle hhle
  by_cases ht : i = .rotate
  · subst ht
    cases h
    exact shrinks_rotate hW hH _
  by_cases hp : i = .preprocess
  · subst hp
    exact shrinks_of_preprocess hW hH h
  obtain ⟨hw, hh⟩ := stageOp_keeps_dims hr ht hp h
  exact .of_eq hW hH hw hh

theorem shrinks_of_outputOp (hW : 1 ≤ img.W) (hH : 1 ≤ img.H) (h : outputOp c i img = .ok out) : img.Shrinks out := by
  unfold outputOp at h
  split at h
  · exact shrinks_of_preprocess hW hH h
  · cases h
    exact .of_eq hW hH rfl rfl

end

/-- What fits the frame's dimension registers (10_state R25) and the frame RAM, the frame itself being readable. -/
theorem Image.Shrinks.bounds {s : State} {out : Image} (h : s.frameImage.Shrinks out) (hs : s.FrameReadable) :
    out.W < 2 ^ 16 ∧ out.H < 2 ^ 16 ∧ out.W * out.H ≤ s.params.maxPixels := by
  have hmax : max s.frameImage.W s.frameImage.H < 2 ^ 16 := max_lt s.frameW.isLt s.frameH.isLt
  have ⟨_, _, hfits⟩ := hs
  exact ⟨h.width_le.trans_lt hmax, h.height_le.trans_lt hmax, h.area_le.trans hfits⟩

/-! ### Everything a completion can do -/

/-- The states a completion of command `i` can leave (44_pipeline R215 to R220, 60_exceptions R233). -/
inductive State.Completion (s : State) (i : Instr) : State → Prop
  | failed (e : CmdError) : State.Completion s i (s.completeError e)
  | nop (hi : i = .nop) : State.Completion s i s.completeOk
  | sreset (hi : i = .sreset) : State.Completion s i s.softReset
  | stage (out : Image) (hi : isStage i = true) (hs : s.FrameReadable) (hop : stageOp s.cfg i s.frameImage = .ok out) :
    State.Completion s i (s.writeFrame out).completeOk
  | output (f : Format) (out : Image) (enc : Encoded) (hi : i = .encode ∨ i = .convert)
      (hf : formatOfCode s.cfg.format.fmt = some f) (hs : s.FrameReadable)
      (hop : outputOp s.cfg i s.frameImage = .ok out)
      (henc : frameOut s.params f s.cfg s.paletteEntry out = .ok enc) :
    State.Completion s i (s.storeResult out enc).completeOk

theorem State.runStage_completion {s : State} {i : Instr} (hi : isStage i = true) :
    s.Completion i (s.runStage (stageOp s.cfg i)) := by
  rcases s.runStage_cases (stageOp s.cfg i) with ⟨_, hrun⟩ | ⟨_, e, _, hrun⟩ | ⟨hs, out, hop, hrun⟩ <;> rw [hrun]
  · exact .failed _
  · exact .failed e
  · exact .stage out hi hs hop

theorem State.runEncode_completion {s : State} {i : Instr} (hi : i = .encode ∨ i = .convert) :
    s.Completion i (s.runEncode (outputOp s.cfg i)) := by
  rcases s.runEncode_cases (outputOp s.cfg i) with ⟨_, hrun⟩ | ⟨f, hf, ⟨_, hrun⟩ | ⟨_, e, _, hrun⟩ | ⟨hs, out, hop,
    ⟨e, _, hrun⟩ | ⟨enc, henc, hrun⟩⟩⟩ <;> rw [hrun]
  · exact .failed _
  · exact .failed _
  · exact .failed e
  · exact .failed e
  · exact .output f out enc hi hf hs hop henc

theorem exec_completion {i : Instr} {s t : State} (h : exec i s = .next t) : s.Completion i t := by
  by_cases hi : isStage i = true
  · rw [exec_stage hi] at h
    cases h
    exact State.runStage_completion hi
  · cases i
    case nop => cases h; exact .nop rfl
    case sreset => cases h; exact .sreset rfl
    case encode => cases h; exact State.runEncode_completion (.inl rfl)
    case convert => cases h; exact State.runEncode_completion (.inr rfl)
    all_goals exact absurd rfl hi

/-- A completion runs the decoded command, or fails on an illegal word. -/
theorem State.engineEvent_cases {s t : State} {w : Word} (h : s.engineEvent w = .next t) :
    t = s.completeError .illegalCommand ∨ ∃ i, decode w = .ok i ∧ exec i s = .next t := by
  cases hd : decode w with
  | error e =>
    rw [State.engineEvent_of_error hd] at h
    cases h
    exact .inl rfl
  | ok i => exact .inr ⟨i, rfl, State.engineEvent_of_ok hd ▸ h⟩

/-! ### Errors -/

theorem errorCode_range (e : CmdError) : 1 ≤ (errorCode e).toNat ∧ (errorCode e).toNat ≤ 4 := by
  cases e <;> decide

/-- A completion that ends with ERR 1 raised an error (44_pipeline R215). -/
theorem State.Completion.failed_of_err {s t : State} {i : Instr} (h : s.Completion i t) (herr : t.status.err = true) :
    ∃ e, t = s.completeError e := by
  cases h with
  | failed e => exact ⟨e, rfl⟩
  | nop | sreset | stage | output => cases herr

/-- The three conditions of 60_exceptions R231 (a). -/
theorem State.not_frameReadable {s : State}
    (h : s.frameW = 0#16 ∨ s.frameH = 0#16 ∨ s.params.maxPixels < s.frameW.toNat * s.frameH.toNat) :
    ¬ s.FrameReadable := by
  rintro ⟨hW, hH, hfits⟩
  rcases h with h | h | h
  · simp [h] at hW
  · simp [h] at hH
  · omega

/-- A stage command on an invalid frame raises InvalidDimension (60_exceptions R231 (a)). -/
theorem exec_stage_invalid {i : Instr} {s : State} (hi : isStage i = true) (hs : ¬ s.FrameReadable) :
    exec i s = .next (s.afterError 3#4) := by
  rw [exec_stage hi]
  rcases s.runStage_cases (stageOp s.cfg i) with ⟨_, hrun⟩ | ⟨h, _⟩ | ⟨h, _⟩
  · rw [hrun, State.completeError_eq]
    rfl
  · exact absurd h hs
  · exact absurd h hs

/-- A resize that fails ends PREPROCESS (40_preprocess R122). -/
theorem preprocess_of_resize_error {c : ConfigRegs} {img : Image} {e : CmdError} (hen : c.preCtrl.resizeEn = true)
    (h : resize img c.maxW.toNat c.maxH.toNat = .error e) : preprocess c img = .error e := by
  have hpre : preResize c img = .error e := by rw [preResize, if_pos hen, h]
  rw [preprocess_eq, hpre]
  rfl

/-! ### Sticky bits -/

/-- What makes bit `n` of STATUS sticky, `read` being its field: a write of 1 to it is the only change of STATUS short
of a reset that can clear it (10_state R24). -/
structure StickyBit (read : Status → Bool) (n : Nat) : Prop where
  onAccept : ∀ st, read st.onAccept = read st
  onSuccess : ∀ st, read st.onSuccess = read st
  onError : ∀ st e, read (st.onError e) = read st
  onOverrun : ∀ st, read st = true → read st.onOverrun = true
  onDroppedWrite : ∀ st, read st = true → read st.onDroppedWrite = true
  outValid : ∀ st : Status, read { st with outValid := true } = read st
  writeOneToClear : ∀ st w, read (st.writeOneToClear w) = (read st && !w.getLsbD n)

theorem stickyBit_cmdOvr : StickyBit Status.cmdOvr 8 :=
  ⟨fun _ => rfl, fun _ => rfl, fun _ _ => rfl, fun _ _ => rfl, fun _ h => h, fun _ => rfl, fun _ _ => rfl⟩

theorem stickyBit_wrBusy : StickyBit Status.wrBusy 9 :=
  ⟨fun _ => rfl, fun _ => rfl, fun _ _ => rfl, fun _ h => h, fun _ _ => rfl, fun _ => rfl, fun _ _ => rfl⟩

section

variable {read : Status → Bool} {n : Nat} {s t : State}

/-- A write that clears a sticky bit is a write of 1 to it in STATUS. -/
theorem StickyBit.cleared_by_write (hb : StickyBit read n) {off : Nat} {w : Word} (h : s.WriteEffect off w t)
    (hset : read s.status = true) (hclear : read t.status = false) : off = 0x08 ∧ w.getLsbD n = true := by
  cases h with
  | cleared hoff => exact ⟨hoff, by simpa [hb.writeOneToClear, hset] using hclear⟩
  | ignored => simp [hset] at hclear
  | dropped => simp [hb.onDroppedWrite _ hset] at hclear
  | overrun => simp [hb.onOverrun _ hset] at hclear
  | accepted => simp [hb.onAccept, hset] at hclear
  | register => simp [hset] at hclear
  | palette => simp [hset] at hclear
  | frame => simp [hset] at hclear

/-- A completion that clears a sticky bit is SRESET's. -/
theorem StickyBit.cleared_by_completion (hb : StickyBit read n) {i : Instr} (h : s.Completion i t)
    (hset : read s.status = true) (hclear : read t.status = false) : i = .sreset := by
  cases h with
  | sreset hi => exact hi
  | failed e => simp [hb.onError, hset] at hclear
  | nop => simp [hb.onSuccess, hset] at hclear
  | stage => simp [hb.onSuccess, hset] at hclear
  | output => simp [hb.onSuccess, hb.outValid, hset] at hclear

/-- The three ways to clear a sticky bit (10_state R24, 70_reset R250, R257, R258). -/
theorem StickyBit.cleared_by_step (hb : StickyBit read n) (h : step s = .next t) (hset : read s.status = true)
    (hclear : read t.status = false) :
    (∃ addr width w rest, s.hostQueue = .write addr width w :: rest ∧ t.hostQueue = rest
        ∧ accessOffset s.params addr width = .ok 0x08 ∧ w.getLsbD n = true)
      ∨ (s.pending = some 0x00000001#32 ∧ t.pending = none ∧ exec .sreset s = .next t)
      ∨ (s.inReset = true ∧ t.inReset = false ∧ ∃ rest, s.hostQueue = .resetRelease :: rest ∧ t.hostQueue = rest) := by
  rcases step_cases s with ⟨_, _, hstep⟩ | ⟨w, _, hp, _, hstep⟩ | ⟨e, rest, hq, _, hstep⟩ <;> rw [hstep] at h
  · cases h
    simp [hset] at hclear
  · rcases State.engineEvent_cases h with rfl | ⟨i, hd, hexec⟩
    · simp [hb.onError, hset] at hclear
    · obtain rfl := hb.cleared_by_completion (exec_completion hexec) hset hclear
      have hw : w = 0x00000001#32 := (decodeEncodeAgree w .sreset).mp hd
      refine .inr (.inl ⟨hw ▸ hp, ?_, hexec⟩)
      cases hexec
      rfl
  · cases State.hostEvent_effect h with
    | @write addr width off w t hoff _ heffect =>
      obtain ⟨rfl, hbit⟩ := hb.cleared_by_write heffect hset hclear
      exact .inl ⟨addr, width, w, rest, hq, heffect.env.2.1, hoff, hbit⟩
    | resetRelease hreset => exact .inr (.inr ⟨hreset, rfl, rest, hq, rfl⟩)
    | read => simp [hset] at hclear
    | writeInReset => simp [hset] at hclear
    | wait => simp [State.doWait, hset] at hclear
    | resetAssert => simp [hset] at hclear
    | resetReleaseIdle => simp [hset] at hclear

end

end Sys2Proof.Machine

namespace Sys2Proof

open Machine

/-- Settles O6: only `completeError` ends with ERR 1, and it is `afterError` of its error's code. -/
theorem failedCommandChangesOnlyStatus : Obligations.FailedCommandChangesOnlyStatus := by
  unfold Obligations.FailedCommandChangesOnlyStatus
  intro s t w h herr
  have hfailed : ∃ e, t = s.completeError e := by
    rcases State.engineEvent_cases h with ht | ⟨i, _, hexec⟩
    · exact ⟨_, ht⟩
    · exact (exec_completion hexec).failed_of_err herr
  obtain ⟨e, rfl⟩ := hfailed
  exact ⟨s.completeError_eq e, errorCode_range e⟩

/-- Settles O12: both bits are sticky, and a sticky bit is cleared in three ways only. -/
theorem stickyBitsClearedOnlyAsStated : Obligations.StickyBitsClearedOnlyAsStated := by
  unfold Obligations.StickyBitsClearedOnlyAsStated
  intro s t h
  exact ⟨stickyBit_cmdOvr.cleared_by_step h, stickyBit_wrBusy.cleared_by_step h⟩

/-- Settles O27: a stage command fails on its frame, and PREPROCESS with its resize. -/
theorem stageCommandsTrapOnInvalidDimensions : Obligations.StageCommandsTrapOnInvalidDimensions := by
  unfold Obligations.StageCommandsTrapOnInvalidDimensions
  constructor
  · intro i s hi hs
    exact exec_stage_invalid hi (State.not_frameReadable hs)
  · intro s hs hen hres
    exact exec_stage_error (exec_stage (i := .preprocess) rfl s) hs (preprocess_of_resize_error hen hres)

/-- Settles O28: a stage command fails, or writes an image that the dimension registers and the frame RAM hold. -/
theorem stageCommandFrame : Obligations.StageCommandFrame := by
  unfold Obligations.StageCommandFrame
  intro i s t hi hexec
  cases exec_completion hexec with
  | failed e => simp [SameEnvironment, Status.onError, State.frameByte]
  | nop h | sreset h => rw [h] at hi; cases hi
  | output _ _ _ h => rcases h with h | h <;> rw [h] at hi <;> cases hi
  | stage out _ hs hop =>
    obtain ⟨hW, hH, _⟩ := (shrinks_of_stageOp hs.1 hs.2.1 hop).bounds hs
    have hframe := (s.frameIs_writeFrame hW hH).completeOk
    refine ⟨rfl, rfl, rfl, rfl, rfl, rfl, rfl, rfl, by simp [SameEnvironment], ?past, nofun, ?dims⟩
    case past =>
      intro k hk
      rw [hframe.width, hframe.height] at hk
      rw [State.completeOk_frameByte, State.frameByte_writeFrame, if_neg (Nat.not_lt.mpr hk)]
    case dims =>
      intro hr ht hp
      obtain ⟨hw, hh⟩ := stageOp_keeps_dims hr ht hp hop
      exact hframe.registers hw hh

end Sys2Proof
end

section
/-! PROOF. The invariant of the block (10_state sections 2 to 4, 44_pipeline sections 1 to 3): each part of it under
each operation, and so under every step; before that, the bounds of a framed output (43_header_framer R203). -/

namespace Sys2Proof.Machine

/-! ### The framed output -/

theorem maxPixels_le {p : Params} (hp : p.wellFormed = true) : p.maxPixels ≤ 1048576 := by
  simp only [Params.wellFormed, Bool.and_eq_true, decide_eq_true_eq] at hp
  exact hp.1.2

theorem headerBytes_length_cases (f : Format) (c : ConfigRegs) (W H : Nat) :
    (headerBytes f c W H).length = 0 ∨ (headerBytes f c W H).length = 6 ∨ (headerBytes f c W H).length = 8 := by
  rw [headerBytes_length]
  split_ifs <;> simp

/-- The payload of an image within MAX_PIXELS takes at most 4 bytes a pixel, and header and palette at most 778 bytes
before it (43_header_framer R203). -/
theorem frameOut_bounds {s : State} {f : Format} {p : Params} {c : ConfigRegs} {img : Image} {e : Encoded}
    (hcount : c.palCount.toNat ≤ 256) (harea : img.W * img.H ≤ p.maxPixels)
    (h : frameOut p f c s.paletteEntry img = .ok e) :
    e.pay.length ≤ 4 * p.maxPixels ∧ e.bytes.length ≤ e.pay.length + 778 := by
  obtain ⟨hhdr, hpal, hpay⟩ := frameOut_lengths hcount h
  have hle := payloadLength_le f c.format.l12 (img.W * img.H)
  rw [e.bytes_length]
  omega

theorem frameOut_pay_pos {s : State} {f : Format} {p : Params} {c : ConfigRegs} {img : Image} {e : Encoded}
    (hcount : c.palCount.toNat ≤ 256) (hW : 1 ≤ img.W) (hH : 1 ≤ img.H)
    (h : frameOut p f c s.paletteEntry img = .ok e) : 1 ≤ e.pay.length := by
  rw [(frameOut_lengths hcount h).2.2]
  exact payloadLength_pos _ _ _ (Nat.mul_pos hW hH)

/-- The ten supported codes (30_encoding R84). -/
theorem formatOfCode_isSome_iff (k : BitVec 4) : (formatOfCode k).isSome = true ↔ k.toNat ≤ 9 := by
  revert k
  decide

theorem code_le_of_formatOfCode {k : BitVec 4} {f : Format} (h : formatOfCode k = some f) : k.toNat ≤ 9 :=
  (formatOfCode_isSome_iff k).mp (by rw [h]; rfl)

/-! ### The parts of the invariant -/

theorem State.registersLegal_of_zero {s : State} (hcfg : s.cfg = ConfigRegs.zero) : s.RegistersLegal := by
  unfold State.RegistersLegal
  rw [hcfg]
  decide

theorem State.resultConsistent_of_zero {s : State} (hvalid : s.status.outValid = false)
    (hresult : s.result = ResultRegs.zero) : s.ResultConsistent := by
  simp [State.ResultConsistent, hvalid, hresult]

section

variable {s : State}

/-- `clampSigned255` keeps BRIGHTNESS and CONTRAST in range, and `palCountOf` PAL_COUNT (10_state R30, R31, R33). -/
theorem State.RegistersLegal.storeReg (h : s.RegistersLegal) (r : RegName) (w : Word) :
    (s.storeReg r w).RegistersLegal := by
  obtain ⟨hbright, hcontrast, hcount⟩ := h
  have hclamp : -255 ≤ (clampSigned255 w).toInt ∧ (clampSigned255 w).toInt ≤ 255 := by
    rw [clampSigned255_toInt]
    exact clamp_bounds _ _ _ (by decide)
  cases r
  case brightness => exact ⟨hclamp, hcontrast, hcount⟩
  case contrast => exact ⟨hbright, hclamp, hcount⟩
  case palCount =>
    refine ⟨hbright, hcontrast, ?_⟩
    show (palCountOf w).toNat ≤ 256
    rw [palCountOf, BitVec.toNat_ofNat]
    omega
  all_goals exact ⟨hbright, hcontrast, hcount⟩

/-- Every completion empties PENDING, so only ERR and ERR_CODE have to agree. -/
theorem State.statusConsistent_of_idle (hidle : s.pending = none) (herr : s.status.err = true ↔ s.status.errCode ≠ 0#4)
    (hcode : s.status.errCode.toNat ≤ 4) : s.StatusConsistent :=
  ⟨herr, hcode, fun h => absurd hidle h⟩

theorem State.statusConsistent_completeOk : s.completeOk.StatusConsistent :=
  State.statusConsistent_of_idle rfl (by simp [Status.onSuccess]) (by simp [Status.onSuccess])

theorem State.statusConsistent_completeError (e : CmdError) : (s.completeError e).StatusConsistent :=
  State.statusConsistent_of_idle rfl (by cases e <;> simp [Status.onError, errorCode]) (errorCode_range e).2

theorem State.statusConsistent_of_zero (hidle : s.pending = none) (herr : s.status.err = false)
    (hcode : s.status.errCode = 0#4) : s.StatusConsistent :=
  State.statusConsistent_of_idle hidle (by simp [herr, hcode]) (by simp [hcode])

/-- A write of ones to STATUS clears ERR and ERR_CODE together, and sets nothing (10_state R24). -/
theorem State.StatusConsistent.cleared (h : s.StatusConsistent) (w : Word) :
    State.StatusConsistent { s with status := s.status.writeOneToClear w } := by
  obtain ⟨herr, hcode, hbusy⟩ := h
  refine ⟨?_, ?_, fun hne => by simp [Status.writeOneToClear, hbusy hne]⟩
  · cases hb : w.getLsbD 2 <;> simp only [Status.writeOneToClear, hb]
    · simpa using herr
    · simp
  · cases hb : w.getLsbD 2 <;> simp only [Status.writeOneToClear, hb]
    · exact hcode
    · simp

/-- An image and its framed output within the limits are what the result registers may describe. -/
theorem State.resultConsistent_storeResult {f : Format} {out : Image} {enc : Encoded}
    (hp : s.params.wellFormed = true) (hcount : s.cfg.palCount.toNat ≤ 256)
    (hf : formatOfCode s.cfg.format.fmt = some f) (hs : s.FrameReadable) (hout : s.frameImage.Shrinks out)
    (henc : frameOut s.params f s.cfg s.paletteEntry out = .ok enc) :
    (s.storeResult out enc).completeOk.ResultConsistent := by
  obtain ⟨hW, hH, harea⟩ := hout.bounds hs
  have hpos := frameOut_pay_pos hcount hout.width_pos hout.height_pos henc
  obtain ⟨hpay, hlen⟩ := frameOut_bounds hcount harea henc
  have hmax := maxPixels_le hp
  have hle : enc.pay.length ≤ enc.bytes.length := by
    rw [enc.bytes_length]
    omega
  refine ⟨nofun, fun _ => ⟨code_le_of_formatOfCode hf, ?_⟩⟩
  simp only [State.completeOk_result, State.storeResult_result, State.completeOk_params, State.storeResult_params,
    BitVec.toNat_ofNat, outCap]
  rw [Nat.mod_eq_of_lt hW, Nat.mod_eq_of_lt hH, Nat.mod_eq_of_lt (by omega), Nat.mod_eq_of_lt (by omega)]
  exact ⟨hout.width_pos, hout.height_pos, harea, hpos, hle, hlen, by omega⟩

/-! ### The invariant under each operation -/

theorem State.Inv.completeOk (h : s.Inv) : s.completeOk.Inv := by
  obtain ⟨hp, hrams, hregs, _, hres⟩ := h
  exact ⟨hp, hrams, hregs, State.statusConsistent_completeOk, hres⟩

theorem State.Inv.completeError (h : s.Inv) (e : CmdError) : (s.completeError e).Inv := by
  obtain ⟨hp, hrams, hregs, _, hres⟩ := h
  exact ⟨hp, hrams, hregs, State.statusConsistent_completeError e, hres⟩

theorem State.Inv.softReset (h : s.Inv) : s.softReset.Inv := by
  obtain ⟨hp, hrams, _, _, _⟩ := h
  exact ⟨hp, hrams, State.registersLegal_of_zero rfl, State.statusConsistent_of_zero rfl rfl rfl,
    State.resultConsistent_of_zero rfl rfl⟩

theorem State.inv_of_reset_values (hp : s.params.wellFormed = true) (hframe : s.frame = []) (hpalette : s.palette = [])
    (houtput : s.output = []) (hcfg : s.cfg = ConfigRegs.zero) (hstatus : s.status = Status.zero)
    (hidle : s.pending = none) (hresult : s.result = ResultRegs.zero) : s.Inv := by
  refine ⟨hp, ⟨?_, ?_, ?_⟩, State.registersLegal_of_zero hcfg, State.statusConsistent_of_zero hidle ?_ ?_,
    State.resultConsistent_of_zero ?_ hresult⟩
  · rw [hframe]; exact Memory.wf_nil _
  · rw [hpalette]; exact Memory.wf_nil _
  · rw [houtput]; exact Memory.wf_nil _
  all_goals rw [hstatus]; rfl

theorem State.Inv.hardReset (h : s.Inv) : s.hardReset.Inv :=
  State.inv_of_reset_values h.1 rfl rfl rfl rfl rfl rfl rfl

/-- A frame that stays within MAX_PIXELS is written within the frame RAM. -/
theorem State.Inv.writeFrame (h : s.Inv) {out : Image} (harea : out.W * out.H ≤ s.params.maxPixels) :
    (s.writeFrame out).Inv := by
  obtain ⟨hp, ⟨hframe, hpalette, houtput⟩, hregs, hstatus, hres⟩ := h
  refine ⟨hp, ⟨Memory.wf_write hframe 0 _ ?_, hpalette, houtput⟩, hregs, hstatus, hres⟩
  rw [Image.bytes_length, frameRamBytes]
  omega

theorem State.Inv.storeResult_completeOk (h : s.Inv) {f : Format} {out : Image} {enc : Encoded}
    (hf : formatOfCode s.cfg.format.fmt = some f) (hs : s.FrameReadable) (hout : s.frameImage.Shrinks out)
    (henc : frameOut s.params f s.cfg s.paletteEntry out = .ok enc) : (s.storeResult out enc).completeOk.Inv := by
  obtain ⟨hp, ⟨hframe, hpalette, houtput⟩, hregs, hstatus, hres⟩ := h
  have ⟨_, _, hcount⟩ := hregs
  obtain ⟨hpay, hlen⟩ := frameOut_bounds hcount (hout.bounds hs).2.2 henc
  refine ⟨hp, ⟨hframe, hpalette, Memory.wf_write houtput 0 _ ?_⟩, hregs, State.statusConsistent_completeOk,
    State.resultConsistent_storeResult hp hcount hf hs hout henc⟩
  rw [outCap]
  omega

/-- Every completion keeps the invariant. -/
theorem State.Inv.completion (h : s.Inv) {i : Instr} {t : State} (hc : s.Completion i t) : t.Inv := by
  cases hc with
  | failed e => exact h.completeError e
  | nop => exact h.completeOk
  | sreset => exact h.softReset
  | stage out _ hs hop =>
    have hout := shrinks_of_stageOp (img := s.frameImage) hs.1 hs.2.1 hop
    exact (h.writeFrame (hout.bounds hs).2.2).completeOk
  | output f out enc _ hf hs hop henc =>
    exact h.storeResult_completeOk hf hs (shrinks_of_outputOp (img := s.frameImage) hs.1 hs.2.1 hop) henc

/-- Every write keeps the invariant. -/
theorem State.Inv.write (h : s.Inv) {off : Nat} {w : Word} {t : State} (hw : s.WriteEffect off w t) : t.Inv := by
  obtain ⟨hp, ⟨hframe, hpalette, houtput⟩, hregs, ⟨herr, hcode, hbusy⟩, hres⟩ := h
  cases hw with
  | ignored | dropped | overrun => exact ⟨hp, ⟨hframe, hpalette, houtput⟩, hregs, ⟨herr, hcode, hbusy⟩, hres⟩
  | accepted =>
    unfold State.accept
    split <;> exact ⟨hp, ⟨hframe, hpalette, houtput⟩, hregs,
      ⟨by simp [Status.onAccept], by simp [Status.onAccept], fun _ => ⟨rfl, rfl⟩⟩, hres⟩
  | cleared =>
    refine ⟨hp, ⟨hframe, hpalette, houtput⟩, hregs, ?_, hres⟩
    exact State.StatusConsistent.cleared ⟨herr, hcode, hbusy⟩ w
  | register r =>
    have hregs' := hregs.storeReg r w
    cases r <;> exact ⟨hp, ⟨hframe, hpalette, houtput⟩, hregs', ⟨herr, hcode, hbusy⟩, hres⟩
  | palette m hm =>
    refine ⟨hp, ⟨hframe, Memory.wf_write hpalette _ _ ?_, houtput⟩, hregs, ⟨herr, hcode, hbusy⟩, hres⟩
    rw [lanes_length, paletteRamBytes]
    omega
  | frame i hi =>
    refine ⟨hp, ⟨Memory.wf_write hframe _ _ ?_, hpalette, houtput⟩, hregs, ⟨herr, hcode, hbusy⟩, hres⟩
    rw [lanes_length, frameRamBytes]
    omega

/-- Every event of the environment keeps the invariant. -/
theorem State.Inv.host (h : s.Inv) {e : HostEvent} {rest : List HostEvent} {t : State} (he : s.HostEffect rest e t) :
    t.Inv := by
  have hpop : (s.popEvent rest).Inv := h
  cases he with
  | write _ _ hw => exact hpop.write hw
  | resetRelease => exact hpop.hardReset
  | read | writeInReset | wait | resetAssert | resetReleaseIdle => exact h

end

end Sys2Proof.Machine

namespace Sys2Proof

open Machine

/-- Settles O50: the parts' own lengths, whose bounds add up to OUT_CAP. -/
theorem framedOutputFits : Obligations.FramedOutputFits := by
  unfold Obligations.FramedOutputFits
  intro p f c s img e hcount harea h
  obtain ⟨hpay, hlen⟩ := frameOut_bounds hcount harea h
  obtain ⟨mode, _, rfl⟩ := frameOut_ok h
  refine ⟨headerBytes_length_cases f c img.W img.H, palettePart_length_le f c s hcount, hpay,
    Encoded.bytes_length _, ?_⟩
  rw [outCap]
  omega

/-- Settles O9: the state after reset has the reset values, and its parameters are legal. -/
theorem resetMeetsInvariant : Obligations.ResetMeetsInvariant :=
  State.inv_of_reset_values (by decide) rfl rfl rfl rfl rfl rfl rfl

/-- Settles O10: a step idles, completes a command, or performs an event of the environment, and each keeps the
invariant. -/
theorem stepKeepsInvariant : Obligations.StepKeepsInvariant := by
  unfold Obligations.StepKeepsInvariant
  intro s t h hrun
  rcases step_cases s with ⟨_, _, hstep⟩ | ⟨w, _, _, _, hstep⟩ | ⟨e, rest, _, _, hstep⟩ <;> rw [hstep] at hrun
  · cases hrun
    exact h
  · rcases State.engineEvent_cases hrun with rfl | ⟨i, _, hexec⟩
    · exact h.completeError _
    · exact h.completion (exec_completion hexec)
  · exact h.host (State.hostEvent_effect hrun)

end Sys2Proof
end

section
/-! PROOF. Geometry: where the pixels of a resize, a rotation and a mirror come from (40_preprocess R105, R107, R109),
and the laws of R124 about them. -/

namespace Sys2Proof.Machine

/-! ### Images that agree on every pixel inside -/

/-- Two images are the same to every reader that stays inside: dimensions, and the pixels at the coordinates they have.
(What an `Image` holds past its pixels is no part of it.) -/
structure Image.Agrees (a b : Image) : Prop where
  width : a.W = b.W
  height : a.H = b.H
  pixel : ∀ x y, x < a.W → y < a.H → a.pixel x y = b.pixel x y

section

variable {a b c : Image}

theorem Image.Agrees.refl (a : Image) : a.Agrees a := ⟨rfl, rfl, fun _ _ _ _ => rfl⟩

theorem Image.Agrees.trans (hab : a.Agrees b) (hbc : b.Agrees c) : a.Agrees c :=
  ⟨hab.width.trans hbc.width, hab.height.trans hbc.height, fun x y hx hy =>
    (hab.pixel x y hx hy).trans (hbc.pixel x y (hab.width ▸ hx) (hab.height ▸ hy))⟩

theorem Image.Agrees.symm (h : a.Agrees b) : b.Agrees a :=
  ⟨h.width.symm, h.height.symm, fun x y hx hy => (h.pixel x y (h.width ▸ hx) (h.height ▸ hy)).symm⟩

theorem Image.Agrees.toList (h : a.Agrees b) : a.toList = b.toList :=
  Image.toList_ext h.width h.height h.pixel

end

/-! ### Resize -/

/-- Nearest-neighbour sampling takes every pixel from inside the source (40_preprocess R105). -/
theorem resample_px_mem {img : Image} {W' H' i : Nat} (hW : 1 ≤ img.W) (hH : 1 ≤ img.H) (hi : i < W' * H') :
    ∃ j, j < img.W * img.H ∧ (resample img W' H').px i = img.px j := by
  have hx : i % W' * img.W / W' < img.W := Nat.div_lt_of_lt_mul (Nat.mul_lt_mul_of_pos_right (col_lt hi) hW)
  have hy : i / W' * img.H / H' < img.H := Nat.div_lt_of_lt_mul (Nat.mul_lt_mul_of_pos_right (row_lt hi) hH)
  exact ⟨_, row_major_lt hx hy, rfl⟩

/-! ### Rotations -/

theorem rotate_one_pixel (img : Image) {x : Nat} (y : Nat) (hx : x < img.H) :
    (rotate img 1#2).pixel x y = img.pixel y (img.H - 1 - x) := by
  rw [rotate_one, Image.tabulate_pixel _ hx]

theorem rotate_two_pixel (img : Image) {x : Nat} (y : Nat) (hx : x < img.W) :
    (rotate img 2#2).pixel x y = img.pixel (img.W - 1 - x) (img.H - 1 - y) := by
  rw [rotate_two, Image.tabulate_pixel _ hx]

theorem rotate_three_pixel (img : Image) {x : Nat} (y : Nat) (hx : x < img.H) :
    (rotate img 3#2).pixel x y = img.pixel (img.W - 1 - y) x := by
  rw [rotate_three, Image.tabulate_pixel _ hx]

/-- A quarter turn reads the inside of its image only. -/
theorem Image.Agrees.quarter {a b : Image} (h : a.Agrees b) : (rotate a 1#2).Agrees (rotate b 1#2) := by
  refine ⟨h.height, h.width, fun x y hx hy => ?_⟩
  change x < a.H at hx
  change y < a.W at hy
  rw [rotate_one_pixel a y hx, rotate_one_pixel b y (h.height ▸ hx), ← h.height, h.pixel _ _ hy (by omega)]

theorem bitVec_two_cases (k : BitVec 2) : k = 0#2 ∨ k = 1#2 ∨ k = 2#2 ∨ k = 3#2 := by
  revert k
  decide

/-- A rotation followed by a quarter turn is the next rotation. -/
theorem rotate_quarter (img : Image) (k : BitVec 2) : (rotate (rotate img k) 1#2).Agrees (rotate img (k + 1#2)) := by
  rcases bitVec_two_cases k with rfl | rfl | rfl | rfl
  · exact .refl _
  · refine ⟨rfl, rfl, fun x y (hx : x < img.W) (hy : y < img.H) => ?_⟩
    rw [rotate_one_pixel (rotate img 1#2) y hx, rotate_one_pixel img _ hy]
    exact (rotate_two_pixel img y hx).symm
  · refine ⟨rfl, rfl, fun x y (hx : x < img.H) (hy : y < img.W) => ?_⟩
    have hback : img.H - 1 - (img.H - 1 - x) = x := by omega
    rw [rotate_one_pixel (rotate img 2#2) y hx, rotate_two_pixel img _ hy]
    exact (congrArg (img.pixel _) hback).trans (rotate_three_pixel img y hx).symm
  · refine ⟨rfl, rfl, fun x y (hx : x < img.W) (hy : y < img.H) => ?_⟩
    have hback : img.W - 1 - (img.W - 1 - x) = x := by omega
    rw [rotate_one_pixel (rotate img 3#2) y hx, rotate_three_pixel img _ hy]
    exact congrArg (img.pixel · y) hback

/-- Rotations compose by adding their codes, since each is as many quarter turns (40_preprocess R124). -/
theorem rotate_rotate (img : Image) (a b : BitVec 2) : (rotate (rotate img a) b).Agrees (rotate img (a + b)) := by
  have more {k : BitVec 2} (h : (rotate (rotate img a) k).Agrees (rotate img (a + k))) :
      (rotate (rotate img a) (k + 1#2)).Agrees (rotate img (a + (k + 1#2))) := by
    rw [← BitVec.add_assoc]
    exact (rotate_quarter _ k).symm.trans (h.quarter.trans (rotate_quarter img (a + k)))
  have zero : (rotate (rotate img a) 0#2).Agrees (rotate img (a + 0#2)) := by
    rw [BitVec.add_zero]
    exact .refl _
  rcases bitVec_two_cases b with rfl | rfl | rfl | rfl
  · exact zero
  · exact more zero
  · exact more (more zero)
  · exact more (more (more zero))

/-- Four quarter turns are the identity. -/
theorem rotate_quarter_four (img : Image) :
    (rotate (rotate (rotate (rotate img 1#2) 1#2) 1#2) 1#2).Agrees img :=
  (rotate_rotate img 1#2 1#2).quarter.quarter.trans ((rotate_quarter img 2#2).quarter.trans (rotate_quarter img 3#2))

/-! ### Mirrors and inversion -/

/-- Each mirror undoes itself (40_preprocess R124). -/
theorem mirror_mirror (img : Image) (h v : Bool) : (mirror (mirror img h v) h v).Agrees img := by
  refine ⟨rfl, rfl, fun x y (hx : x < img.W) (hy : y < img.H) => ?_⟩
  have hcol : (if h then img.W - 1 - x else x) < img.W := by split <;> omega
  have hback {n k : Nat} (b : Bool) (hk : k < n) :
      (if b then n - 1 - (if b then n - 1 - k else k) else if b then n - 1 - k else k) = k := by
    cases b
    · rfl
    · simp only [if_true]
      omega
  rw [mirror_pixel (mirror img h v) h v x y hx, mirror_W, mirror_H, mirror_pixel img h v _ _ hcol, hback h hx,
    hback v hy]

/-- Both mirrors are the half turn (40_preprocess R109). -/
theorem mirror_both (img : Image) : mirror img true true = rotate img 2#2 := rfl

theorem invert_invert (img : Image) : invert (invert img) = img := by
  have hback (v : Byte) : 255#8 - (255#8 - v) = v := by bv_omega
  simp only [invert, Image.mapRgb, hback]

end Sys2Proof.Machine

namespace Sys2Proof

open Machine

/-- Settles O16: a resize leaves the image, or samples it at dimensions that R104 bounds. -/
theorem resizeStaysWithinBounds : Obligations.ResizeStaysWithinBounds := by
  unfold Obligations.ResizeStaysWithinBounds
  intro img out mw mh hW hH h
  obtain ⟨hmw, hmh, hw, hh, hwle, hhle⟩ := resize_dims hW hH h
  refine ⟨hmw, hmh, hw, hh, Nat.mul_le_mul hwle hhle, fun i hi => ?_⟩
  rcases resize_cases img mw mh with ⟨_, hr⟩ | ⟨_, _, hr⟩ | ⟨_, _, _, hr⟩ <;> rw [hr] at h <;> cases h
  · exact ⟨i, hi, rfl⟩
  · exact resample_px_mem hW hH hi

/-- Settles O18: MIRROR leaves the mirrored image, tabulated, in the frame. -/
theorem mirrorCommand : Obligations.MirrorCommand := by
  unfold Obligations.MirrorCommand
  rintro s W H hs rfl rfl
  obtain ⟨t, hrun, hok, ht⟩ := exec_stage_frameIs (exec_stage (i := .mirror) rfl s) hs rfl s.frameW.isLt s.frameH.isLt
  obtain ⟨hw, hh, hpx⟩ := State.FrameIs.tabulate ht
  exact ⟨t, hrun, hok, hw, hh, hpx⟩

/-- Settles O29: rotations add up quarter turns, and four of them give the image back. -/
theorem rotationsCompose : Obligations.RotationsCompose := by
  unfold Obligations.RotationsCompose
  intro img a b _ _
  have h := rotate_rotate img a b
  exact ⟨h.width, h.height, h.toList, (rotate_quarter_four img).toList⟩

/-- Settles O30: the reversed coordinates and the complemented channels come back, and the half turn is both mirrors. -/
theorem mirrorAndInvertAreInvolutive : Obligations.MirrorAndInvertAreInvolutive := by
  unfold Obligations.MirrorAndInvertAreInvolutive
  intro img h v _ _
  have hm := mirror_mirror img h v
  rw [mirror_both, invert_invert]
  exact ⟨⟨hm.width, hm.height, hm.toList⟩, ⟨rfl, rfl, rfl⟩, rfl, rfl, rfl⟩

end Sys2Proof
end

section
/-! PROOF. Contrast, the tonal laws, and the two dithers (40_preprocess R111, R112, R117, R119, R124, R126). -/

namespace Sys2Proof.Machine

/-! ### Half-up rounding and contrast -/

/-- Half-up rounding is the quotient `q` with `q ≤ n/d + 1/2 < q + 1` (00_scope R10). -/
theorem roundHalfUp_bounds (n : Int) {d : Int} (hd : 0 < d) :
    roundHalfUp n d * (2 * d) ≤ 2 * n + d ∧ 2 * n + d < (roundHalfUp n d + 1) * (2 * d) :=
  ⟨Int.ediv_mul_le _ (by omega), Int.lt_ediv_add_one_mul_self _ (by omega)⟩

/-- A whole quotient needs no rounding. -/
theorem roundHalfUp_mul (k : Int) {d : Int} (hd : 0 < d) : roundHalfUp (d * k) d = k := by
  obtain ⟨hlo, hhi⟩ := roundHalfUp_bounds (d * k) hd
  have hle : roundHalfUp (d * k) d ≤ k := by
    by_contra hlt
    have : (k + 1) * (2 * d) ≤ roundHalfUp (d * k) d * (2 * d) := Int.mul_le_mul_of_nonneg_right (by omega) (by omega)
    linarith
  have hge : k ≤ roundHalfUp (d * k) d := by
    by_contra hlt
    have : (roundHalfUp (d * k) d + 1) * (2 * d) ≤ k * (2 * d) := Int.mul_le_mul_of_nonneg_right (by omega) (by omega)
    linarith
  omega

/-- The contrast of one channel is the rounded product about 128, clamped (40_preprocess R112). -/
theorem cval_toNat (c : Int) (v : Byte) :
    ((cval c v).toNat : Int)
      = min 255 (max 0 (roundHalfUp (259 * (c + 255) * (v.toNat - 128)) (255 * (259 - c)) + 128)) := by
  rw [cval, clamp8_toNat, clamp_zero_255]

/-- Where the rounded product is whole, the contrast is it, clamped. -/
theorem cval_of_exact {c : Int} {v v' : Byte} (hc : c < 259)
    (h : 259 * (c + 255) * ((v.toNat : Int) - 128) = 255 * (259 - c) * (v'.toNat - 128)) : cval c v = v' := by
  have hv' := v'.isLt
  apply BitVec.eq_of_toNat_eq
  have hval := cval_toNat c v
  rw [h, roundHalfUp_mul _ (by omega)] at hval
  omega

/-! ### Levels of a dither -/

/-- `p` is a dithered `q`: black or white, with the alpha of `q` (40_preprocess R126). -/
structure Pixel.Dithered (p q : Pixel) : Prop where
  level : p.r = 0#8 ∨ p.r = 255#8
  green : p.g = p.r
  blue : p.b = p.r
  alpha : p.a = q.a

/-- What the raster loop computes at index `k`, when its turn comes (40_preprocess R117). -/
def fsTurn (img : Image) (k : Nat) : FsPixel := fsPixel img (fsRun img k).E k

/-- The pixels of error diffusion: the levels of the raster loop (40_preprocess R117). -/
theorem ditherFs_px (img : Image) {k : Nat} (hk : k < img.W * img.H) :
    (ditherFs img).px k
      = ⟨clamp8 (fsTurn img k).new, clamp8 (fsTurn img k).new, clamp8 (fsTurn img k).new, (img.px k).a⟩ := by
  simp [ditherFs, fsTrace_getElem? img k hk, fsTurn]

theorem fsTurn_new_cases (img : Image) (k : Nat) : (fsTurn img k).new = 0 ∨ (fsTurn img k).new = 255 := by
  simp only [fsTurn, fsPixel]
  split
  · exact .inr rfl
  · exact .inl rfl

/-- A level of error diffusion is a byte. -/
theorem clamp8_fsTurn_new (img : Image) (k : Nat) : ((clamp8 (fsTurn img k).new).toNat : Int) = (fsTurn img k).new := by
  rcases fsTurn_new_cases img k with h | h <;> rw [h] <;> rfl

theorem ditherFs_dithered (img : Image) {k : Nat} (hk : k < img.W * img.H) :
    ((ditherFs img).px k).Dithered (img.px k) := by
  rw [ditherFs_px img hk]
  refine ⟨?_, rfl, rfl, rfl⟩
  rcases fsTurn_new_cases img k with h | h <;> rw [h]
  · exact .inl rfl
  · exact .inr rfl

theorem ditherBayer_dithered (img : Image) (k : Nat) : ((ditherBayer img).px k).Dithered (img.px k) := by
  refine ⟨?_, rfl, rfl, ?_⟩
  · show bayerLevel _ _ _ = 0#8 ∨ bayerLevel _ _ _ = 255#8
    unfold bayerLevel
    split
    · exact .inr rfl
    · exact .inl rfl
  · show (img.px (k / img.W * img.W + k % img.W)).a = (img.px k).a
    rw [row_major_self]

/-- The matrix of 40_preprocess R119, row after row. -/
theorem bayerMatrix_eq (x y : Nat) :
    bayerMatrix x y = [0, 8, 2, 10, 12, 4, 14, 6, 3, 11, 1, 9, 15, 7, 13, 5].getD (4 * (y % 4) + x % 4) 0 := by
  have table : ∀ i < 4, ∀ j < 4, bayerMatrix i j
      = [0, 8, 2, 10, 12, 4, 14, 6, 3, 11, 1, 9, 15, 7, 13, 5].getD (4 * j + i) 0 := by decide
  rw [← table _ (Nat.mod_lt x (by decide)) _ (Nat.mod_lt y (by decide))]
  simp only [bayerMatrix, Nat.mod_mod]

/-- A luminance against a threshold is a sum of channels against three of them. -/
theorem lumMean_ge_iff (p : Pixel) (n : Nat) : lumMean p ≥ n ↔ p.r.toNat + p.g.toNat + p.b.toNat ≥ 3 * n := by
  rw [lumMean, ge_iff_le, Nat.le_div_iff_mul_le (by decide), Nat.mul_comm]

/-! ### The recurrence of error diffusion -/

theorem row_major_inj {W x y x' y' : Nat} (hx : x < W) (hx' : x' < W) (h : y * W + x = y' * W + x') :
    x = x' ∧ y = y' := by
  constructor
  · rw [← row_major_mod (y := y) hx, h, row_major_mod hx']
  · rw [← row_major_div (y := y) hx, h, row_major_div hx']

/-- The share the pixel at `k` has received once its turn comes, of those aimed from coordinates in `A`: from the pixel
at `(x', y')`, when there is one (`c`). -/
theorem fsShare_eq {img : Image} (hW : 0 < img.W) {k d : Nat} {w : Int} (A : Nat → Nat → Prop)
    [∀ x y, Decidable (A x y)] {c : Prop} [Decidable c] {x' y' : Nat}
    (hsrc : c → x' < img.W ∧ y' * img.W + x' + d = k ∧ 0 < d ∧ A x' y')
    (honly : ∀ a b, a < img.W → b * img.W + a + d = k → 0 < d → A a b → c) :
    fsShare img k k d w (fun q => A (q % img.W) (q / img.W))
      = if c then w * fsErr img (y' * img.W + x') / 16 else 0 := by
  unfold fsShare floorDiv
  by_cases hc : c
  · obtain ⟨hx', hk, hd, haim⟩ := hsrc hc
    have hback : k - d = y' * img.W + x' := by omega
    have haim' : A ((y' * img.W + x') % img.W) ((y' * img.W + x') / img.W) := by
      rwa [row_major_mod hx', row_major_div hx']
    rw [if_pos hc, hback, if_pos ⟨by omega, by omega, haim'⟩]
  · rw [if_neg hc, if_neg]
    rintro ⟨hle, hlt, haim⟩
    have hself := row_major_self img.W (k - d)
    exact hc (honly _ _ (Nat.mod_lt _ hW) (by omega) (by omega) haim)

/-- What pixel `(x, y)` gathers from its four neighbours inside the image (40_preprocess R117). -/
theorem fsAcc_eq (img : Image) {x y : Nat} (hx : x < img.W) (hy : y < img.H) :
    (fsRun img (y * img.W + x)).E.getD (y * img.W + x) 0
      = (if 1 ≤ x then 7 * fsErr img (y * img.W + (x - 1)) / 16 else 0)
        + (if x + 1 < img.W ∧ 1 ≤ y then 3 * fsErr img ((y - 1) * img.W + (x + 1)) / 16 else 0)
        + (if 1 ≤ y then 5 * fsErr img ((y - 1) * img.W + x) / 16 else 0)
        + (if 1 ≤ x ∧ 1 ≤ y then fsErr img ((y - 1) * img.W + (x - 1)) / 16 else 0) := by
  have hW : 0 < img.W := by omega
  have above (h : 1 ≤ y) : (y - 1) * img.W + img.W = y * img.W := by
    rw [← Nat.succ_mul, Nat.succ_eq_add_one, Nat.sub_add_cancel h]
  have below (b : Nat) : (b + 1) * img.W = b * img.W + img.W := Nat.succ_mul _ _
  have hleft := fsShare_eq hW (k := y * img.W + x) (d := 1) (w := 7) (fun a _ => a + 1 < img.W) (c := 1 ≤ x)
    (x' := x - 1) (y' := y) (fun _ => by omega) fun a b _ hq _ haim => by
      obtain ⟨hcol, _⟩ := row_major_inj (x := a + 1) (y := b) (y' := y) haim hx (by omega)
      omega
  have hupperRight := fsShare_eq hW (k := y * img.W + x) (d := img.W - 1) (w := 3) (fun a b => 1 ≤ a ∧ b + 1 < img.H)
    (c := x + 1 < img.W ∧ 1 ≤ y) (x' := x + 1) (y' := y - 1) (fun h => by have := above h.2; omega)
    fun a b ha hq _ haim => by
      obtain ⟨hcol, hrow⟩ := row_major_inj (x := a - 1) (y := b + 1) (y' := y) (by omega) hx (by rw [below]; omega)
      omega
  have hupper := fsShare_eq hW (k := y * img.W + x) (d := img.W) (w := 5) (fun _ b => b + 1 < img.H) (c := 1 ≤ y)
    (x' := x) (y' := y - 1) (fun h => by have := above h; omega) fun a b ha hq _ _ => by
      obtain ⟨_, hrow⟩ := row_major_inj (y := b + 1) (y' := y) ha hx (by rw [below]; omega)
      omega
  have hupperLeft := fsShare_eq hW (k := y * img.W + x) (d := img.W + 1) (w := 1)
    (fun a b => a + 1 < img.W ∧ b + 1 < img.H) (c := 1 ≤ x ∧ 1 ≤ y) (x' := x - 1) (y' := y - 1)
    (fun h => by have := above h.2; omega) fun a b _ hq _ haim => by
      obtain ⟨hcol, hrow⟩ := row_major_inj (x := a + 1) (y := b + 1) (y' := y) haim.1 hx (by rw [below]; omega)
      omega
  rw [fsRun_E_getD img _ _ (row_major_lt hx hy).le, hleft, hupperRight, hupper, hupperLeft, one_mul]

end Sys2Proof.Machine

namespace Sys2Proof

open Machine

/-- Settles O20: contrast is a map of the three channels, each the clamped half-up rounding of R112. -/
theorem adjustContrastCommand : Obligations.AdjustContrastCommand := by
  unfold Obligations.AdjustContrastCommand
  rintro s c hs rfl hlo hhi
  obtain ⟨t, hrun, hok, hw, hh, hpx⟩ := exec_stage_mapRgb (i := .adjContrast) rfl hs
  refine ⟨t, hrun, hok, hw, hh, fun i hi => ?_⟩
  rw [hpx i hi]
  refine ⟨fun v v' hv => ?_, rfl⟩
  have hv' : v' = cval s.cfg.contrast.toInt v := by
    rcases hv with hv | hv | hv <;> cases hv <;> rfl
  obtain ⟨hle, hlt⟩ := roundHalfUp_bounds (259 * (s.cfg.contrast.toInt + 255) * ((v.toNat : Int) - 128))
    (d := 255 * (259 - s.cfg.contrast.toInt)) (by omega)
  exact ⟨_, hle, hlt, hv' ▸ cval_toNat _ v⟩

/-- Settles O24: DITHER_BAYER leaves the tabulated levels, each a sum of channels against three thresholds. -/
theorem orderedDitherCommand : Obligations.OrderedDitherCommand := by
  unfold Obligations.OrderedDitherCommand
  rintro s W H hs rfl rfl
  obtain ⟨t, hrun, hok, ht⟩ :=
    exec_stage_frameIs (exec_stage (i := .ditherBayer) rfl s) hs rfl s.frameW.isLt s.frameH.isLt
  obtain ⟨hw, hh, hpx⟩ := State.FrameIs.tabulate ht
  refine ⟨t, hrun, hok, hw, hh, fun x y hx hy n hn => ?_⟩
  rw [hpx x y hx hy]
  have hlevel : bayerLevel (lumMean (s.framePixel (y * s.frameW.toNat + x))) x y = n := by
    rw [bayerLevel, hn, bayerMatrix_eq]
    exact if_congr (lumMean_ge_iff _ _) rfl rfl
  rw [← hlevel]
  rfl

/-- Settles O25: both operations write dithered pixels, and the command leaves them in the frame. -/
theorem ditherOutputIsBlackOrWhite : Obligations.DitherOutputIsBlackOrWhite := by
  unfold Obligations.DitherOutputIsBlackOrWhite
  intro s t i hi hs hexec k hk
  have hpx : (t.framePixel k).Dithered (s.framePixel k) := by
    rcases hi with rfl | rfl
    · obtain ⟨t', hrun, _, ht⟩ :=
        exec_stage_frameIs (exec_stage (i := .ditherFs) rfl s) hs rfl s.frameW.isLt s.frameH.isLt
      obtain rfl : t' = t := by simpa [hrun] using hexec
      rw [ht.entries k hk]
      exact ditherFs_dithered s.frameImage hk
    · obtain ⟨t', hrun, _, ht⟩ :=
        exec_stage_frameIs (exec_stage (i := .ditherBayer) rfl s) hs rfl s.frameW.isLt s.frameH.isLt
      obtain rfl : t' = t := by simpa [hrun] using hexec
      rw [ht.entries k hk]
      exact ditherBayer_dithered s.frameImage k
  exact ⟨hpx.level, hpx.green, hpx.blue, hpx.alpha⟩

/-- Settles O22: the values of the recurrence are those of the raster loop at each pixel's own turn. -/
theorem errorDiffusionCommand : Obligations.ErrorDiffusionCommand := by
  unfold Obligations.ErrorDiffusionCommand
  rintro s W H hs rfl rfl
  obtain ⟨t, hrun, hok, ht⟩ :=
    exec_stage_frameIs (exec_stage (i := .ditherFs) rfl s) hs rfl s.frameW.isLt s.frameH.isLt
  obtain ⟨hw, hh⟩ := ht.registers
  refine ⟨t, fun x y => (fsTurn s.frameImage (y * s.frameW.toNat + x)).acc,
    fun x y => (fsTurn s.frameImage (y * s.frameW.toNat + x)).old,
    fun x y => (fsTurn s.frameImage (y * s.frameW.toNat + x)).new,
    fun x y => fsErr s.frameImage (y * s.frameW.toNat + x), hrun, hok, hw, hh, fun x y hx hy => ?_⟩
  have hlevel := clamp8_fsTurn_new s.frameImage (y * s.frameW.toNat + x)
  have hk : y * s.frameW.toNat + x < s.frameImage.W * s.frameImage.H := row_major_lt hx hy
  rw [ht.entries _ hk, ditherFs_px s.frameImage hk]
  exact ⟨fsAcc_eq s.frameImage hx hy, rfl, rfl, rfl, hlevel, hlevel, hlevel, rfl⟩

/-- Settles O31: contrast is exact where it is claimed, and a clamped sum with an offset keeps the offset's sign. -/
theorem tonalLaws : Obligations.TonalLaws := by
  unfold Obligations.TonalLaws
  have hbright (d : Int) (v : Byte) :
      (0 < d → v.toNat ≤ (brightChannel d v).toNat) ∧ (d < 0 → (brightChannel d v).toNat ≤ v.toNat) := by
    have hv := v.isLt
    have hval := brightChannel_toNat d v
    omega
  refine ⟨fun v => ⟨cval_of_exact (by decide) (by ring), cval_of_exact (by decide) (by simp)⟩,
    fun c _ hc => cval_of_exact (by omega) (by simp), hbright, fun img d channel hchannel => ⟨rfl, rfl, ?_⟩⟩
  have hpx (i : Nat) : channel ((bright img d).px i) = brightChannel d (channel (img.px i)) := by
    simp only [List.mem_cons, List.not_mem_nil, or_false] at hchannel
    rcases hchannel with rfl | rfl | rfl <;> rfl
  constructor
  · intro hd
    exact Image.channelTotal_le channel rfl rfl fun i _ => hpx i ▸ (hbright d _).1 hd
  · intro hd
    exact Image.channelTotal_le channel rfl rfl fun i _ => hpx i ▸ (hbright d _).2 hd

end Sys2Proof
end

section
/-! PROOF. ENCODE and CONVERT (44_pipeline R218 to R223, 60_exceptions R234): their errors in order, the output they
store, and what they leave alone. -/

namespace Sys2Proof.Machine

/-! ### The checks in their order -/

section

variable {s : State} {i : Instr}

theorem exec_output_unsupported (hi : i = .encode ∨ i = .convert) (hf : formatOfCode s.cfg.format.fmt = none) :
    exec i s = .next (s.afterError 2#4) := by
  rw [exec_output hi]
  simp [State.runEncode, State.readFormat, hf, State.complete, State.completeError_eq, errorCode, bind, Except.bind]

theorem exec_output_invalid {f : Format} (hi : i = .encode ∨ i = .convert)
    (hf : formatOfCode s.cfg.format.fmt = some f) (hs : ¬ s.FrameReadable) : exec i s = .next (s.afterError 3#4) := by
  rw [exec_output hi]
  simp [State.runEncode, State.readFormat, hf, s.readFrame_error hs, State.complete, State.completeError_eq, errorCode,
    bind, Except.bind]

/-- Past the checks of the format and the frame, the operation and the framing decide. -/
theorem exec_output_readable {f : Format} (hi : i = .encode ∨ i = .convert)
    (hf : formatOfCode s.cfg.format.fmt = some f) (hs : s.FrameReadable) :
    exec i s = .next (s.complete (outputOp s.cfg i s.frameImage >>= s.encodeImage f)) := by
  rw [exec_output hi]
  simp [State.runEncode, State.readFormat, hf, s.readFrame_ok hs, bind, Except.bind]

theorem exec_output_op_error {f : Format} {e : CmdError} (hi : i = .encode ∨ i = .convert)
    (hf : formatOfCode s.cfg.format.fmt = some f) (hs : s.FrameReadable)
    (hop : outputOp s.cfg i s.frameImage = .error e) : exec i s = .next (s.afterError (errorCode e)) := by
  rw [exec_output_readable hi hf hs, hop]
  rfl

/-- The framing fails exactly as the scan mode does (42_scan_order R176). -/
theorem exec_output_scan_error {f : Format} {img : Image} {e : CmdError} (hi : i = .encode ∨ i = .convert)
    (hf : formatOfCode s.cfg.format.fmt = some f) (hs : s.FrameReadable)
    (hop : outputOp s.cfg i s.frameImage = .ok img) (hmode : effectiveMode s.params f s.cfg = .error e) :
    exec i s = .next (s.afterError (errorCode e)) := by
  have hframe : frameOut s.params f s.cfg s.paletteEntry img = .error e := by
    rw [frameOut_eq, hmode]
    rfl
  rw [exec_output_readable hi hf hs, hop]
  simp [State.encodeImage, hframe, State.complete, State.completeError_eq, bind, Except.bind]

end

theorem effectiveMode_fault {p : Params} {f : Format} {c : ConfigRegs} (hpacked : isPacked f c.format.l12 = true)
    (hmode : c.scan.mode ≠ .horizontal) (hpolicy : p.subbyteScan = .fault) :
    effectiveMode p f c = .error .unimplementedScan := by
  rw [effectiveMode, if_pos ⟨hpacked, hmode⟩, hpolicy]

/-- Where the scan order is defined: a packed layout in another mode takes the horizontal order under PASSTHROUGH, and
every other payload its own mode (42_scan_order R176). -/
theorem effectiveMode_ok {p : Params} {f : Format} {c : ConfigRegs} {mode : ScanMode}
    (hpass : isPacked f c.format.l12 = true → c.scan.mode ≠ .horizontal →
      p.subbyteScan = .passthrough ∧ mode = .horizontal)
    (hown : isPacked f c.format.l12 = false ∨ c.scan.mode = .horizontal → mode = c.scan.mode) :
    effectiveMode p f c = .ok mode := by
  unfold effectiveMode
  split
  · next h =>
    obtain ⟨hpolicy, rfl⟩ := hpass h.1 h.2
    rw [hpolicy]
  · next h =>
    have hdefined : isPacked f c.format.l12 = false ∨ c.scan.mode = .horizontal := by
      by_cases hp : isPacked f c.format.l12 = true
      · exact .inr (not_not.mp fun hm => h ⟨hp, hm⟩)
      · exact .inl (by simpa using hp)
    rw [hown hdefined]

/-! ### The output stored -/

/-- The parts of an output sequence (43_header_framer R190, R202). -/
def encodedOf (s : State) (f : Format) (mode : ScanMode) (img : Image) : Encoded :=
  ⟨headerBytes f s.cfg img.W img.H, palettePart f s.cfg s.paletteEntry, pack f s.cfg (scanSeq mode img)⟩

theorem frameOut_encodedOf {s : State} {f : Format} {mode : ScanMode} (img : Image)
    (hmode : effectiveMode s.params f s.cfg = .ok mode) :
    frameOut s.params f s.cfg s.paletteEntry img = .ok (encodedOf s f mode img) := by
  rw [frameOut_eq, hmode]
  rfl

/-- The output RAM's bytes after a result is stored: the sequence, then the old ones (44_pipeline R220). -/
theorem State.outputByte_storeResult (s : State) (img : Image) (e : Encoded) (k : Nat) :
    (s.storeResult img e).outputByte k = if k < e.bytes.length then e.bytes.getD k 0#8 else s.outputByte k := by
  rw [State.outputByte, State.storeResult_output, State.storeResult_powerOnEpoch, Memory.get?_write]
  by_cases hk : k < e.bytes.length
  · simp [hk]
  · simp [hk, State.outputByte]

/-- A header is not empty (43_header_framer R194, R195), so RES_INFO tells whether there is one. -/
theorem headerBytes_isEmpty (f : Format) (c : ConfigRegs) (W H : Nat) :
    (headerBytes f c W H).isEmpty = !c.hdrCtrl.hdrEn := by
  have hlen := headerBytes_length f c W H
  cases hen : c.hdrCtrl.hdrEn <;> cases hg : isGrayClass f <;> simp_all [List.isEmpty_iff, ← List.length_eq_zero_iff]

/-- A palette holds its count at least (43_header_framer R198). -/
theorem palettePart_isEmpty (f : Format) (c : ConfigRegs) (ram : Nat → List Byte) :
    (palettePart f c ram).isEmpty = !(decide (f = .color256) && c.hdrCtrl.palEn) := by
  unfold palettePart
  by_cases hf : f = .color256 <;> cases hen : c.hdrCtrl.palEn <;> simp [hf, paletteTable, le16]

theorem resInfoOf_encodedOf (s : State) (f : Format) (mode : ScanMode) (img : Image) :
    resInfoOf s.cfg (encodedOf s f mode img)
      = ⟨s.cfg.format.fmt, s.cfg.scan.mode, s.cfg.hdrCtrl.hdrEn, decide (f = .color256) && s.cfg.hdrCtrl.palEn⟩ := by
  simp [resInfoOf, encodedOf, headerBytes_isEmpty, palettePart_isEmpty]

/-- OUT_LEN holds the length of every output of an image within MAX_PIXELS (10_state R37): a palette has fewer than 512
entries. -/
theorem encoded_length_lt {s : State} {f : Format} {out : Image} {enc : Encoded} (hp : s.params.wellFormed = true)
    (harea : out.W * out.H ≤ s.params.maxPixels) (henc : frameOut s.params f s.cfg s.paletteEntry out = .ok enc) :
    enc.bytes.length < 2 ^ 32 := by
  obtain ⟨mode, _, rfl⟩ := frameOut_ok henc
  have hmax := maxPixels_le hp
  have hhdr := headerBytes_length_cases f s.cfg out.W out.H
  have hpay := payloadLength_le f s.cfg.format.l12 (out.W * out.H)
  have hcount : paletteCount s.cfg < 512 := by
    unfold paletteCount
    split <;> omega
  have hpal : (palettePart f s.cfg s.paletteEntry).length ≤ 2 + 3 * paletteCount s.cfg := by
    unfold palettePart
    split
    · exact (paletteTable_length s.cfg s).le
    · simp
  rw [Encoded.bytes_length]
  simp only [pack_length, scanSeq_length]
  omega

/-- ENCODE and CONVERT of an image whose scan order is defined: the output bytes and the result registers (44_pipeline
R220). -/
theorem exec_output_stores {s : State} {i : Instr} {f : Format} {mode : ScanMode} {img : Image}
    (hi : i = .encode ∨ i = .convert) (hp : s.params.wellFormed = true) (hs : s.FrameReadable)
    (hf : formatOfCode s.cfg.format.fmt = some f) (hop : outputOp s.cfg i s.frameImage = .ok img)
    (hmode : effectiveMode s.params f s.cfg = .ok mode) :
    ∃ t : State, exec i s = .next t ∧ t.Succeeded ∧ t.status.outValid = true
      ∧ (∀ k, k < (encodedOf s f mode img).bytes.length →
          t.outputByte k = (encodedOf s f mode img).bytes.getD k 0#8)
      ∧ t.result.outLen.toNat = (encodedOf s f mode img).bytes.length
      ∧ t.result.payLen.toNat = (encodedOf s f mode img).pay.length
      ∧ t.result.resW.toNat = img.W ∧ t.result.resH.toNat = img.H
      ∧ t.result.resInfo = ⟨s.cfg.format.fmt, s.cfg.scan.mode, s.cfg.hdrCtrl.hdrEn,
          decide (f = .color256) && s.cfg.hdrCtrl.palEn⟩ := by
  have henc := frameOut_encodedOf img hmode
  obtain ⟨hW, hH, harea⟩ := (shrinks_of_outputOp (img := s.frameImage) hs.1 hs.2.1 hop).bounds hs
  have hlen := encoded_length_lt hp harea henc
  have hpay : (encodedOf s f mode img).pay.length ≤ (encodedOf s f mode img).bytes.length := by
    rw [Encoded.bytes_length]
    omega
  have hrun : exec i s = .next (s.storeResult img (encodedOf s f mode img)).completeOk := by
    rw [exec_output_readable hi hf hs, hop]
    simp [State.encodeImage, henc, State.complete, bind, Except.bind, pure, Except.pure]
  refine ⟨_, hrun, State.completeOk_succeeded _, rfl, fun k hk => ?_, ?_⟩
  · rw [State.completeOk_outputByte, State.outputByte_storeResult, if_pos hk]
  · rw [State.completeOk_result, State.storeResult_result, resInfoOf_encodedOf]
    simp only [BitVec.toNat_ofNat]
    exact ⟨Nat.mod_eq_of_lt hlen, Nat.mod_eq_of_lt (by omega), Nat.mod_eq_of_lt hW, Nat.mod_eq_of_lt hH, trivial⟩

/-! ### PRE_CTRL 0 -/

/-- PRE_CTRL reads 0 only when no operation is requested (10_state R28). -/
theorem PreCtrl.eq_of_toWord_zero {r : PreCtrl} (h : r.toWord = 0#32) :
    r = ⟨false, 0#2, false, false, false, false, false, .off⟩ := by
  obtain ⟨resizeEn, rot, mirrorH, mirrorV, brightEn, contrastEn, invertEn, dither⟩ := r
  have hsum := congrArg BitVec.toNat h
  simp only [PreCtrl.toWord, toNat_append_eq, bit, BitVec.toNat_ofBool, BitVec.toNat_ofNat] at hsum
  have hfields : (ditherCode dither).toNat = 0 ∧ rot.toNat = 0 ∧ resizeEn.toNat = 0 ∧ mirrorH.toNat = 0
      ∧ mirrorV.toNat = 0 ∧ brightEn.toNat = 0 ∧ contrastEn.toNat = 0 ∧ invertEn.toNat = 0 := by omega
  simp only [Bool.toNat_eq_zero] at hfields
  obtain ⟨hdither, hrot, rfl, rfl, rfl, rfl, rfl, rfl⟩ := hfields
  obtain rfl : rot = 0#2 := BitVec.eq_of_toNat_eq hrot
  cases dither
  case off => rfl
  case errorDiffusion | ordered => cases hdither

theorem mirror_none (img : Image) : mirror img false false = img := by
  simp [mirror, Image.tabulate, Image.pixel, row_major_self]

theorem preprocess_none {c : ConfigRegs} (h : c.preCtrl = ⟨false, 0#2, false, false, false, false, false, .off⟩)
    (img : Image) : preprocess c img = .ok img := by
  rw [preprocess_eq]
  simp [preResize, preTonal, preDither, h, rotate_zero, mirror_none, Except.map]

end Sys2Proof.Machine

namespace Sys2Proof

open Machine

/-- Settles O32: ENCODE stores the parts of the frame's own output. -/
theorem encodeCommand : Obligations.EncodeCommand := by
  unfold Obligations.EncodeCommand
  rintro s f mode hdr pal pay hp hs hf hpass hown rfl rfl rfl
  obtain ⟨t, hrun, hok, hvalid, hbytes, hlen, hpay, hW, hH, hinfo⟩ :=
    exec_output_stores (.inl rfl) hp hs hf rfl (effectiveMode_ok hpass hown)
  exact ⟨t, hrun, hok, hvalid, hbytes, hlen, hpay, BitVec.eq_of_toNat_eq hW, BitVec.eq_of_toNat_eq hH, hinfo⟩

/-- Settles O33: CONVERT stores the parts of the preprocessed image's output. -/
theorem convertCommand : Obligations.ConvertCommand := by
  unfold Obligations.ConvertCommand
  rintro s f mode img hdr pal pay hp hs hf hpre hpass hown rfl rfl rfl
  exact exec_output_stores (.inr rfl) hp hs hf hpre (effectiveMode_ok hpass hown)

/-- Settles O34: with no request `preprocess` gives its image back, so the two commands run the same operation. -/
theorem convertWithoutRequestsIsEncode : Obligations.ConvertWithoutRequestsIsEncode := by
  unfold Obligations.ConvertWithoutRequestsIsEncode
  intro s hpre
  have hop : preprocess s.cfg = fun img => .ok img := funext (preprocess_none (PreCtrl.eq_of_toWord_zero hpre))
  show Host.Outcome.next (s.runEncode (preprocess s.cfg)) = _
  rw [hop]
  rfl

/-- Settles O35: each check in its order, the later ones under the success of the earlier. -/
theorem encodeErrorsFollowThePriority : Obligations.EncodeErrorsFollowThePriority := by
  unfold Obligations.EncodeErrorsFollowThePriority
  intro s
  have supported (hfmt : s.cfg.format.fmt.toNat ≤ 9) : ∃ f, formatOfCode s.cfg.format.fmt = some f :=
    Option.isSome_iff_exists.mp ((formatOfCode_isSome_iff _).mpr hfmt)
  refine ⟨fun hfmt => ?format, fun hfmt hs => ?frame, fun hfmt hs hen hres => ?resize,
    fun f hf hpacked hmode hpolicy hs => ?scan⟩
  case format =>
    have hnone : formatOfCode s.cfg.format.fmt = none := by
      rw [← Option.not_isSome_iff_eq_none, formatOfCode_isSome_iff]
      omega
    exact ⟨exec_output_unsupported (.inl rfl) hnone, exec_output_unsupported (.inr rfl) hnone⟩
  case frame =>
    obtain ⟨f, hf⟩ := supported hfmt
    have hinvalid := State.not_frameReadable hs
    exact ⟨exec_output_invalid (.inl rfl) hf hinvalid, exec_output_invalid (.inr rfl) hf hinvalid⟩
  case resize =>
    obtain ⟨f, hf⟩ := supported hfmt
    exact exec_output_op_error (.inr rfl) hf hs (preprocess_of_resize_error hen hres)
  case scan =>
    have hscan := effectiveMode_fault hpacked hmode hpolicy
    exact ⟨exec_output_scan_error (.inl rfl) hf hs rfl hscan, fun img hpre =>
      exec_output_scan_error (.inr rfl) hf hs hpre hscan⟩

/-- Settles O36: a completion of either command fails, or stores a result whose bytes end at OUT_LEN. -/
theorem encodeConvertFrame : Obligations.EncodeConvertFrame := by
  unfold Obligations.EncodeConvertFrame
  intro i s t hi hp hexec
  cases exec_completion hexec with
  | failed e => simp [SameEnvironment, Status.onError, State.outputByte]
  | nop h | sreset h => rcases hi with rfl | rfl <;> cases h
  | stage _ h => rcases hi with rfl | rfl <;> cases h
  | output f out enc _ _ hs hop henc =>
    obtain ⟨_, _, harea⟩ := (shrinks_of_outputOp (img := s.frameImage) hs.1 hs.2.1 hop).bounds hs
    have hlen := encoded_length_lt hp harea henc
    refine ⟨rfl, rfl, rfl, rfl, rfl, rfl, rfl, rfl, by simp [SameEnvironment], fun k hk => ?_, nofun⟩
    rw [State.completeOk_result, State.storeResult_result, BitVec.toNat_ofNat, Nat.mod_eq_of_lt hlen] at hk
    rw [State.completeOk_outputByte, State.outputByte_storeResult, if_neg (Nat.not_lt.mpr hk)]

end Sys2Proof
end

section
/-! PROOF. The four scan orders as bijections (42_scan_order R171 to R175, R181), and byte-aligned payloads group by
group (R170, R178, 44_pipeline R221). -/

namespace Sys2Proof.Machine

/-! ### A scan order and its inverse -/

/-- The position at which a scan order visits `(x, y)` (42_scan_order R171 to R174). -/
def scanIndex (mode : ScanMode) (W H x y : Nat) : Nat :=
  match mode with
  | .horizontal | .dataVertical => y * W + x
  | .vertical => x * H + y
  | .horizontalReverse => (H - 1 - y) * W + x

section

variable {W H : Nat}

theorem scanIndex_lt (mode : ScanMode) {x y : Nat} (hx : x < W) (hy : y < H) : scanIndex mode W H x y < W * H := by
  cases mode
  case horizontal | dataVertical => exact row_major_lt hx hy
  case vertical => exact Nat.mul_comm H W ▸ row_major_lt hy hx
  case horizontalReverse => exact row_major_lt hx (by omega)

theorem scanOrder_scanIndex (mode : ScanMode) {x y : Nat} (hx : x < W) (hy : y < H) :
    scanOrder mode W H (scanIndex mode W H x y) = (x, y) := by
  cases mode <;>
    simp only [scanOrder, scanIndex, row_major_mod hx, row_major_div hx, row_major_mod hy, row_major_div hy]
  case horizontalReverse =>
    rw [Nat.sub_sub_self (Nat.le_sub_one_of_lt hy)]

theorem scanIndex_scanOrder (mode : ScanMode) {k : Nat} (hk : k < W * H) :
    scanIndex mode W H (scanOrder mode W H k).1 (scanOrder mode W H k).2 = k := by
  cases mode <;> simp only [scanOrder, scanIndex]
  case horizontal | dataVertical | vertical => exact row_major_self _ k
  case horizontalReverse =>
    rw [Nat.sub_sub_self (Nat.le_sub_one_of_lt (row_lt hk)), row_major_self]

/-- On a single row or column the row-wise and the column-wise order agree (42_scan_order R175). -/
theorem scanOrder_of_line {mode : ScanMode} (hline : W = 1 ∨ H = 1) (hmode : mode ≠ .horizontalReverse) {k : Nat}
    (hk : k < W * H) : scanOrder mode W H k = scanOrder .horizontal W H k := by
  cases mode
  case horizontal | dataVertical => rfl
  case horizontalReverse => exact absurd rfl hmode
  case vertical =>
    rcases hline with rfl | rfl
    · rw [one_mul] at hk
      simp [scanOrder, Nat.div_eq_of_lt hk, Nat.mod_eq_of_lt hk, Nat.mod_one]
    · rw [mul_one] at hk
      simp [scanOrder, Nat.div_eq_of_lt hk, Nat.mod_eq_of_lt hk, Nat.mod_one]

end

/-- The pixel at `(x, y)` stands where the scan order visits it. -/
theorem scanSeq_scanIndex (mode : ScanMode) (img : Image) {x y : Nat} (hx : x < img.W) (hy : y < img.H) :
    (scanSeq mode img)[scanIndex mode img.W img.H x y]? = some (img.pixel x y) := by
  rw [scanSeq_getElem? mode img _ (scanIndex_lt mode hx hy), scanOrder_scanIndex mode hx hy]

/-! ### Byte-aligned payloads -/

/-- The bytes of one pixel in a byte-aligned layout, before byte order; a packed layout has none (41_quantize_pack R145
to R153). -/
def pixelGroup (f : Format) (r : FormatReg) : Pixel → List Byte :=
  match f with
  | .mono | .gray4 | .gray16 => fun _ => []
  | .grayscale => groupGrayscale
  | .color256 => groupColor256
  | .color4096 => groupColor4096
  | .color16bit => groupColor16 r.v16
  | .color18bit => groupColor18 r.p18
  | .color24bit => groupColor24 r.rgbOrder
  | .color32bit => groupColor32 r.rgbOrder

theorem groupBytes_color4096_eq_some {l12 : Bool} {n : Nat} (h : groupBytes .color4096 l12 = some n) :
    l12 = true ∧ n = 2 := by
  cases l12
  · cases h
  · cases h
    exact ⟨rfl, rfl⟩

section

variable {f : Format} {c : ConfigRegs} {n : Nat}

theorem pack_eq_packBytes (h : groupBytes f c.format.l12 = some n) (seq : List Pixel) :
    pack f c seq = packBytes (pixelGroup f c.format) c.scan.byteOrder seq := by
  cases f
  case mono | gray4 | gray16 => cases h
  case color4096 => rw [pack, if_pos (groupBytes_color4096_eq_some h).1, pixelGroup]
  all_goals rfl

theorem pixelGroup_length {r : FormatReg} (h : groupBytes f r.l12 = some n) (p : Pixel) :
    (pixelGroup f r p).length = n := by
  cases f
  case mono | gray4 | gray16 => cases h
  case color4096 => exact (groupBytes_color4096_eq_some h).2.symm
  case color24bit => cases h; exact ordered_length _ p
  case color32bit => cases h; simp [pixelGroup, groupColor32]
  all_goals
    cases h
    rfl

theorem groupBytes_pos {l12 : Bool} (h : groupBytes f l12 = some n) : 1 ≤ n := by
  cases f
  case mono | gray4 | gray16 => cases h
  case color4096 => rw [(groupBytes_color4096_eq_some h).2]; decide
  all_goals
    cases h
    decide

/-- A layout is packed exactly when it has no pixel group (41_quantize_pack R140, R162). -/
theorem isPacked_iff_groupBytes (f : Format) (l12 : Bool) : isPacked f l12 = true ↔ groupBytes f l12 = none := by
  cases f <;> cases l12 <;> decide

/-- Byte order is no part of a packed payload (42_scan_order R178). -/
theorem pack_byteOrder_ignored (h : isPacked f c.format.l12 = true) (bo : ByteOrder) (seq : List Pixel) :
    pack f { c with scan := { c.scan with byteOrder := bo } } seq = pack f c seq := by
  cases f
  case mono | gray4 | gray16 => rfl
  case color4096 =>
    have hl : c.format.l12 = false := by simpa [isPacked] using h
    simp [pack, hl]
  all_goals cases h

end

theorem byteOrderGroup_length (bo : ByteOrder) (g : List Byte) : (byteOrderGroup bo g).length = g.length := by
  cases bo <;> simp [byteOrderGroup]

/-- Byte `j` of a pixel's group in a byte-aligned payload. -/
theorem packBytes_getElem? {group : Pixel → List Byte} {n : Nat} (hgroup : ∀ p, (group p).length = n) (bo : ByteOrder)
    {seq : List Pixel} {i j : Nat} {p : Pixel} (hi : seq[i]? = some p) (hj : j < n) :
    (packBytes group bo seq)[i * n + j]? = (byteOrderGroup bo (group p))[j]? :=
  flatMap_getElem?_group seq _ n (fun q => (byteOrderGroup_length bo _).trans (hgroup q)) i j p hi hj

/-- In the `lsb` payload each pixel's group stands reversed, as `applyByteOrder` leaves it (42_scan_order R178). -/
theorem packBytes_lsb {group : Pixel → List Byte} {n : Nat} (hn : 1 ≤ n) (hgroup : ∀ p, (group p).length = n)
    (seq : List Pixel) : packBytes group .lsb seq = applyByteOrder (packBytes group .msb seq) .lsb n := by
  have hlen (bo : ByteOrder) := packBytes_length group bo seq n hgroup
  refine List.ext_getElem? fun i => ?_
  by_cases hi : i / n < seq.length
  · have hj : i % n < n := Nat.mod_lt i hn
    have hp := List.getElem?_eq_getElem hi
    have hwhole : i / n * n + n ≤ (packBytes group .msb seq).length := by
      rw [hlen, ← Nat.succ_mul]
      exact Nat.mul_le_mul_right n hi
    rw [← row_major_self n i, applyByteOrder_lsb_group hwhole hj, packBytes_getElem? hgroup .lsb hp hj,
      packBytes_getElem? hgroup .msb hp (by omega)]
    show (group seq[i / n]).reverse[i % n]? = (group seq[i / n])[n - 1 - i % n]?
    rw [List.getElem?_reverse (by rw [hgroup]; exact hj), hgroup]
  · have hpast : seq.length * n ≤ i := (Nat.le_div_iff_mul_le hn).mp (Nat.le_of_not_lt hi)
    rw [List.getElem?_eq_none (by rw [hlen]; exact hpast),
      List.getElem?_eq_none (by rw [applyByteOrder_length, hlen]; exact hpast)]

end Sys2Proof.Machine

namespace Sys2Proof

open Machine

/-- Settles O38: a byte-aligned payload is the pixels' groups, each reversed for `lsb`; a packed one sees no byte
order. -/
theorem lsbReversesEachPixelGroup : Obligations.LsbReversesEachPixelGroup := by
  unfold Obligations.LsbReversesEachPixelGroup
  rintro f c msb lsb seq rfl rfl
  constructor
  · intro n hn
    have bytes (bo : ByteOrder) : pack f { c with scan := { c.scan with byteOrder := bo } } seq
        = packBytes (pixelGroup f c.format) bo seq :=
      pack_eq_packBytes (c := { c with scan := { c.scan with byteOrder := bo } }) hn seq
    rw [bytes, bytes]
    exact packBytes_lsb (groupBytes_pos hn) (pixelGroup_length hn) seq
  · intro hpacked
    exact (pack_byteOrder_ignored hpacked .lsb seq).trans (pack_byteOrder_ignored hpacked .msb seq).symm

/-- Settles O40: the sequence follows the order, and every order has an inverse. -/
theorem scanOrdersAreBijections : Obligations.ScanOrdersAreBijections := by
  unfold Obligations.ScanOrdersAreBijections
  refine ⟨fun W H k _ => ⟨rfl, rfl, rfl, rfl⟩, fun mode img => ⟨scanSeq_horizontal img, scanSeq_length mode img,
    fun k hk => ⟨?raster, scanSeq_getElem? mode img k hk⟩⟩, fun mode W H => ⟨fun k hk => scanOrder_lt hk, ?injective,
    fun x y hx hy => ⟨scanIndex mode W H x y, scanIndex_lt mode hx hy, scanOrder_scanIndex mode hx hy⟩,
    fun hline hmode k hk => scanOrder_of_line hline hmode hk⟩⟩
  case raster =>
    rw [scanSeq_getElem? .horizontal img k hk]
    exact congrArg (some ∘ img.px) (row_major_self img.W k)
  case injective =>
    intro j k hj hk h
    rw [← scanIndex_scanOrder mode hj, h, scanIndex_scanOrder mode hk]

/-- Settles O41: a pixel's group stands where the scan order visits the pixel, and it is the same group in every
order. -/
theorem scanMovesWholePixelGroups : Obligations.ScanMovesWholePixelGroups := by
  unfold Obligations.ScanMovesWholePixelGroups
  intro f c img n hn x y j hx hy hj
  have group (mode : ScanMode) : (pack f c (scanSeq mode img))[scanIndex mode img.W img.H x y * n + j]?
      = (byteOrderGroup c.scan.byteOrder (pixelGroup f c.format (img.pixel x y)))[j]? := by
    rw [pack_eq_packBytes hn]
    exact packBytes_getElem? (pixelGroup_length hn) _ (scanSeq_scanIndex mode img hx hy) hj
  exact ⟨(group .vertical).trans (group .horizontal).symm, (group .horizontalReverse).trans (group .horizontal).symm,
    rfl⟩

/-- Settles O42: position `k` is `(k / H, k mod H)`, which is `(k mod H, k / H)` of the transpose. -/
theorem verticalScanIsTranspose : Obligations.VerticalScanIsTranspose := by
  unfold Obligations.VerticalScanIsTranspose
  intro img
  unfold scanSeq
  rw [Image.tabulate_W, Image.tabulate_H, Nat.mul_comm img.W img.H]
  refine List.map_congr_left fun k hk => ?_
  have hcol : k % img.H < img.H := col_lt (List.mem_range.mp hk)
  exact (Image.tabulate_pixel (fun x y => img.pixel y x) hcol).symm

end Sys2Proof
end

section
/-! PROOF. The packers (41_quantize_pack R141 to R157): the slots of the sub-byte formats, the bytes of the 12-bit
packer, and each format's group as arithmetic on the channels. -/

namespace Sys2Proof.Machine

/-! ### Sub-byte slots -/

/-- The bits of an OR over a list of positions: bit `i` is set when a position in `P` contributes it. -/
theorem getLsbD_foldl_or {w : Nat} (P : Nat → Prop) [DecidablePred P] (v : Nat → BitVec w) (l : List Nat)
    (acc : BitVec w) (i : Nat) :
    (l.foldl (fun acc j => if P j then acc ||| v j else acc) acc).getLsbD i
      = (acc.getLsbD i || l.any (fun j => decide (P j) && (v j).getLsbD i)) := by
  induction l generalizing acc with
  | nil => simp
  | cons j l ih =>
    rw [List.foldl_cons, ih, List.any_cons]
    by_cases hj : P j <;> simp [hj, Bool.or_assoc]

/-- The slots of a byte are disjoint: a bit of one lies below or above every other (41_quantize_pack R154). -/
theorem slot_disjoint {b j j' r : Nat} (hb : b = 1 ∨ b = 2 ∨ b = 4) (bo : BitOrder) (hj : j < 8 / b) (hj' : j' < 8 / b)
    (hr : r < b) :
    slot b j bo + r < 8
      ∧ (j' ≠ j → slot b j bo + r < slot b j' bo ∨ slot b j' bo + b ≤ slot b j bo + r) := by
  rcases hb with rfl | rfl | rfl <;> cases bo <;> simp only [slot] <;> omega

/-- What code `c` contributes to bit `i` of a byte, in the slot at `lo` (41_quantize_pack R154). -/
theorem getLsbD_code_shiftLeft {b c : Nat} (hc : c < 2 ^ b) (lo i : Nat) (hi : i < 8) :
    (BitVec.ofNat 8 c <<< lo).getLsbD i = (decide (lo ≤ i ∧ i < lo + b) && c.testBit (i - lo)) := by
  rw [BitVec.getLsbD_shiftLeft, BitVec.getLsbD_ofNat]
  by_cases hlo : lo ≤ i
  · by_cases hhi : i < lo + b
    · have : i - lo < 8 := by omega
      simp [hi, hlo, hhi, this, Nat.not_lt.mpr hlo]
    · have hzero : c.testBit (i - lo) = false :=
        Nat.testBit_lt_two_pow (hc.trans_le (Nat.pow_le_pow_right (by decide) (by omega)))
      simp [hzero]
  · simp [hlo, Nat.lt_of_not_le hlo]

section

variable {codes : List Nat} {b : Nat} {bo : BitOrder}

/-- Every code fits its slot; so does the 0 past the last one. -/
theorem getD_lt_of_codes (hcodes : ∀ c ∈ codes, c < 2 ^ b) (i : Nat) : codes.getD i 0 < 2 ^ b := by
  rcases Nat.lt_or_ge i codes.length with hi | hi
  · rw [List.getD_eq_getElem _ _ hi]
    exact hcodes _ (List.getElem_mem hi)
  · rw [List.getD_eq_default _ _ hi]
    exact Nat.two_pow_pos b

/-- Bit `r` of slot `j` is bit `r` of that slot's code: no other code reaches it. -/
theorem packSubByte_slot_bit (hb : b = 1 ∨ b = 2 ∨ b = 4) (hcodes : ∀ c ∈ codes, c < 2 ^ b) {k j r : Nat}
    (hj : j < 8 / b) (hr : r < b) :
    (packSubByte codes b bo k).getLsbD (slot b j bo + r) = (codes.getD (k * (8 / b) + j) 0).testBit r := by
  have hbit := (slot_disjoint hb bo hj hj hr).1
  have contributes (j' : Nat) :=
    getLsbD_code_shiftLeft (getD_lt_of_codes hcodes (k * (8 / b) + j')) (slot b j' bo) _ hbit
  rw [packSubByte, getLsbD_foldl_or, BitVec.getLsbD_zero, Bool.false_or, Bool.eq_iff_iff, List.any_eq_true]
  constructor
  · rintro ⟨j', hmem, hset⟩
    simp only [contributes, Bool.and_eq_true, decide_eq_true_eq] at hset
    obtain ⟨_, hin, hset⟩ := hset
    have hsame : j' = j := by
      by_contra hne
      have := (slot_disjoint hb bo hj (List.mem_range.mp hmem) hr).2 hne
      omega
    rwa [hsame, Nat.add_sub_cancel_left] at hset
  · intro hset
    refine ⟨j, List.mem_range.mpr hj, ?_⟩
    have hlen : k * (8 / b) + j < codes.length := by
      by_contra hge
      rw [List.getD_eq_default _ _ (Nat.le_of_not_lt hge), Nat.zero_testBit] at hset
      cases hset
    simp only [contributes, Bool.and_eq_true, decide_eq_true_eq, Nat.add_sub_cancel_left]
    exact ⟨hlen, by omega, hset⟩

/-- The field of a byte at slot `j` is that slot's code (41_quantize_pack R154, 42_scan_order R179). -/
theorem packSubByte_slot (hb : b = 1 ∨ b = 2 ∨ b = 4) (hcodes : ∀ c ∈ codes, c < 2 ^ b) (k : Nat) {j : Nat}
    (hj : j < 8 / b) :
    (packSubByte codes b bo k).toNat / 2 ^ slot b j bo % 2 ^ b = codes.getD (k * (8 / b) + j) 0 := by
  refine Nat.eq_of_testBit_eq fun r => ?_
  rw [Nat.testBit_mod_two_pow, Nat.testBit_div_two_pow]
  by_cases hr : r < b
  · rw [← packSubByte_slot_bit (bo := bo) hb hcodes hj hr]
    simp [hr, BitVec.getLsbD, Nat.add_comm]
  · have hzero : (codes.getD (k * (8 / b) + j) 0).testBit r = false :=
      Nat.testBit_lt_two_pow
        ((getD_lt_of_codes hcodes _).trans_le (Nat.pow_le_pow_right (by decide) (Nat.le_of_not_lt hr)))
    rw [hzero]
    simp [hr]

theorem packSub_getD {k : Nat} (hk : k < (packSub codes b bo).length) :
    (packSub codes b bo).getD k 0#8 = packSubByte codes b bo k := by
  rw [List.getD_eq_getElem _ _ hk]
  simp [packSub]

end

/-! ### The 12-bit packer -/

/-- Every two codes make three bytes, so what follows them starts three bytes on (41_quantize_pack R155). -/
theorem pack12_getD_drop (codes : List (BitVec 12)) (j i : Nat) (h : 2 * j ≤ codes.length) :
    (pack12 codes).getD (3 * j + i) 0#8 = (pack12 (codes.drop (2 * j))).getD i 0#8 := by
  induction j generalizing codes with
  | zero => simp
  | succ j ih =>
    match codes, h with
    | c0 :: c1 :: rest, h =>
      have hnext : 3 * (j + 1) + i = 3 * j + i + 3 := by omega
      rw [hnext, Nat.mul_succ]
      exact ih rest (by simp only [List.length_cons] at h; omega)

/-- A pair of codes as three bytes (41_quantize_pack R148). -/
theorem pack12_pair_toNat (c0 c1 : BitVec 12) (rest : List (BitVec 12)) :
    ((pack12 (c0 :: c1 :: rest)).getD 0 0#8).toNat = c0.toNat / 16
      ∧ ((pack12 (c0 :: c1 :: rest)).getD 1 0#8).toNat = c0.toNat % 16 * 16 + c1.toNat / 256
      ∧ ((pack12 (c0 :: c1 :: rest)).getD 2 0#8).toNat = c1.toNat % 256 := by
  have h0 := c0.isLt
  have h1 := c1.isLt
  simp only [pack12, List.cons_append, List.getD_cons_zero, List.getD_cons_succ, toNat_append_eq,
    BitVec.extractLsb'_toNat, Nat.shiftRight_eq_div_pow]
  omega

/-- An unpaired code as two bytes (41_quantize_pack R148). -/
theorem pack12_single_toNat (c : BitVec 12) :
    ((pack12 [c]).getD 0 0#8).toNat = c.toNat / 16 ∧ ((pack12 [c]).getD 1 0#8).toNat = c.toNat % 16 * 16 := by
  have h := c.isLt
  simp only [pack12, List.getD_cons_zero, List.getD_cons_succ, toNat_append_eq, BitVec.extractLsb'_toNat,
    Nat.shiftRight_eq_div_pow, BitVec.toNat_ofNat]
  omega

theorem drop_eq_cons_of_getElem? {α : Type} {l : List α} {k : Nat} {a : α} (h : l[k]? = some a) :
    l.drop k = a :: l.drop (k + 1) := by
  obtain ⟨hk, rfl⟩ := List.getElem?_eq_some_iff.mp h
  exact List.drop_eq_getElem_cons hk

/-! ### The groups as arithmetic on the channels -/

theorem lum601_lt (p : Pixel) : lum601 p < 256 := by
  have := p.r.isLt; have := p.g.isLt; have := p.b.isLt
  unfold lum601
  omega

section

variable (p : Pixel)

theorem groupGrayscale_toNat : (groupGrayscale p).map BitVec.toNat = [lum601 p] := by
  simp [groupGrayscale, Nat.mod_eq_of_lt (lum601_lt p)]

theorem groupColor256_toNat :
    (groupColor256 p).map BitVec.toNat = [p.r.toNat / 32 * 32 + p.g.toNat / 32 * 4 + p.b.toNat / 64] := by
  have := p.r.isLt; have := p.g.isLt; have := p.b.isLt
  simp only [groupColor256, List.map_cons, List.map_nil, toNat_append_eq, BitVec.extractLsb'_toNat,
    Nat.shiftRight_eq_div_pow, List.cons.injEq, and_true]
  omega

theorem groupColor4096_toNat :
    (groupColor4096 p).map BitVec.toNat = [p.r.toNat / 16, p.g.toNat / 16 * 16 + p.b.toNat / 16] := by
  have := p.r.isLt; have := p.g.isLt; have := p.b.isLt
  simp only [groupColor4096, List.map_cons, List.map_nil, toNat_append_eq, BitVec.extractLsb'_toNat,
    Nat.shiftRight_eq_div_pow, code12_toNat, BitVec.toNat_ofNat, List.cons.injEq, and_true]
  omega

/-- The 16-bit word, high byte first (41_quantize_pack R150). -/
theorem groupColor16_toNat (v16 : Bool) :
    (groupColor16 v16 p).map BitVec.toNat = [(word16 v16 p).toNat / 256, (word16 v16 p).toNat % 256] := by
  have := (word16 v16 p).isLt
  simp only [groupColor16, List.map_cons, List.map_nil, BitVec.extractLsb'_toNat, Nat.shiftRight_eq_div_pow,
    List.cons.injEq, and_true]
  omega

theorem place6_toNat (p18 : Bool) (v : Byte) : (place6 p18 v).toNat = if p18 then v.toNat / 4 * 4 else v.toNat / 4 := by
  have := v.isLt
  cases p18 <;> simp only [place6, if_true, if_false, Bool.false_eq_true, toNat_append_eq, BitVec.extractLsb'_toNat,
    Nat.shiftRight_eq_div_pow, BitVec.toNat_ofNat] <;> omega

/-- One pixel's bytes as numbers, turned round for `lsb` (42_scan_order R178). -/
theorem pack_singleton_toNat {f : Format} {c : ConfigRegs} {n : Nat} {ord : List Nat → List Nat}
    (hord : ∀ l, ord l = if c.scan.byteOrder = .lsb then l.reverse else l) (hn : groupBytes f c.format.l12 = some n) :
    (pack f c [p]).map BitVec.toNat = ord ((pixelGroup f c.format p).map BitVec.toNat) := by
  rw [pack_eq_packBytes hn, packBytes_singleton, hord]
  split
  · rw [List.map_reverse]
  · rfl

end

/-- Turning a one-byte group round changes nothing. -/
theorem ord_singleton {bo : ByteOrder} {ord : List Nat → List Nat}
    (hord : ∀ l, ord l = if bo = .lsb then l.reverse else l) (v : Nat) : ord [v] = [v] := by
  rw [hord]
  split <;> rfl

/-- The 12-bit codes of the packed color4096 layout (41_quantize_pack R147). -/
theorem code12_eq (p : Pixel) :
    code12 p = BitVec.ofNat 12 (p.r.toNat / 16 * 256 + p.g.toNat / 16 * 16 + p.b.toNat / 16) := by
  rw [← code12_toNat, BitVec.ofNat_toNat, BitVec.setWidth_eq]

/-- A format that is not packed packs its pixels one after another (41_quantize_pack R156). -/
theorem pack_packed_or_flatMap (f : Format) (c : ConfigRegs) (seq : List Pixel) :
    f = .mono ∨ f = .gray4 ∨ f = .gray16 ∨ (f = .color4096 ∧ c.format.l12 = false)
      ∨ pack f c seq = seq.flatMap (fun p => pack f c [p]) := by
  cases hn : groupBytes f c.format.l12 with
  | none =>
    cases f
    case mono | gray4 | gray16 => simp
    case color4096 => cases hl : c.format.l12 <;> simp [groupBytes, hl] at hn ⊢
    all_goals cases hn
  | some n =>
    refine .inr (.inr (.inr (.inr ?_)))
    simp only [pack_eq_packBytes hn]
    exact packBytes_eq_flatMap _ _ seq

end Sys2Proof.Machine

namespace Sys2Proof

open Machine

/-- Settles O45: a slot's bits are its code's, since the slots of a byte are disjoint. -/
theorem subBytePackingSlots : Obligations.SubBytePackingSlots := by
  unfold Obligations.SubBytePackingSlots
  intro codes b bo hb hcodes
  refine ⟨packSub_length codes b bo hb, fun k j hk hj => ?_⟩
  have hslot : (if bo = .msbFirst then 8 - b * (j + 1) else b * j) = slot b j bo := by
    cases bo <;> rfl
  rw [packSub_getD hk, hslot, packSubByte_slot hb hcodes k hj]

/-- Settles O46: the bytes at `3j` are those of the codes from `2j` on, a pair or a last one. -/
theorem twelveBitPacking : Obligations.TwelveBitPacking := by
  unfold Obligations.TwelveBitPacking
  intro codes
  constructor
  · intro j c0 c1 h0 h1
    have hlen : 2 * j ≤ codes.length := (List.getElem?_eq_some_iff.mp h0).1.le
    have hdrop : codes.drop (2 * j) = c0 :: c1 :: codes.drop (2 * j + 1 + 1) := by
      rw [drop_eq_cons_of_getElem? h0, drop_eq_cons_of_getElem? h1]
    have hbyte := fun i => pack12_getD_drop codes j i hlen
    rw [hdrop] at hbyte
    have hfirst := hbyte 0
    rw [Nat.add_zero] at hfirst
    rw [hfirst, hbyte 1, hbyte 2]
    exact pack12_pair_toNat c0 c1 _
  · intro j c hlen h
    have hdrop : codes.drop (2 * j) = [c] := by
      rw [drop_eq_cons_of_getElem? h, List.drop_of_length_le hlen.le]
    have hbyte := fun i => pack12_getD_drop codes j i (by omega)
    rw [hdrop] at hbyte
    refine ⟨by rw [pack12_length]; omega, ?_⟩
    have hfirst := hbyte 0
    rw [Nat.add_zero] at hfirst
    rw [hfirst, hbyte 1]
    exact pack12_single_toNat c

/-- Settles O47: the packed formats pack their codes, and every other format each pixel's group, whose bytes are the
stated arithmetic. -/
theorem quantizerValues : Obligations.QuantizerValues := by
  unfold Obligations.QuantizerValues
  intro c seq grey ord hgrey hord
  have hlum : lumMean = grey := funext fun p => (hgrey p).symm
  have hcodes : code12
      = fun p => BitVec.ofNat 12 (p.r.toNat / 16 * 256 + p.g.toNat / 16 * 16 + p.b.toNat / 16) := funext code12_eq
  refine ⟨?mono, ?gray4, ?gray16, ?color4096, fun f => pack_packed_or_flatMap f c seq, ?pixel, fun l12 => ⟨?groups,
    fun f => isPacked_iff_groupBytes f l12⟩⟩
  case mono | gray4 | gray16 =>
    rw [← hlum]
    rfl
  case color4096 =>
    intro hl
    rw [pack, if_neg (by simp [hl]), hcodes]
  case groups => cases l12 <;> rfl
  case pixel =>
    rintro p r g b rfl rfl rfl
    have bytes {f : Format} {n : Nat} (hn : groupBytes f c.format.l12 = some n) := pack_singleton_toNat p hord hn
    refine ⟨?grayscale, ?color256, fun hl => ?words12, fun hv => ?rgb565, fun hv => ?rgb555, fun hp => ?low, fun hp =>
      ?high, fun o x y z hmem ho => ?orders⟩
    case grayscale =>
      rw [bytes rfl]
      exact (congrArg ord (groupGrayscale_toNat p)).trans (ord_singleton hord _)
    case color256 =>
      rw [bytes rfl]
      exact (congrArg ord (groupColor256_toNat p)).trans (ord_singleton hord _)
    case words12 =>
      rw [bytes (by rw [groupBytes_color4096, if_pos hl])]
      exact congrArg ord (groupColor4096_toNat p)
    case rgb565 | rgb555 =>
      rw [bytes rfl, pixelGroup, groupColor16_toNat, word16_toNat, hv]
      rfl
    case low | high =>
      rw [bytes rfl]
      simp [pixelGroup, groupColor18, place6_toNat, hp]
    case orders =>
      rw [bytes rfl, bytes rfl]
      simp only [pixelGroup, groupColor24, groupColor32, ho]
      simp only [List.mem_cons, List.not_mem_nil, or_false] at hmem
      rcases hmem with h | h | h | h | h | h <;> cases h <;> exact ⟨rfl, rfl⟩

end Sys2Proof
end

section
/-! PROOF. The framer (43_header_framer R191 to R201): the scan byte, the headers, and the palette's serialisation. -/

namespace Sys2Proof.Machine

/-! ### Fields as numbers -/

theorem bit_toNat (b : Bool) : (bit b).toNat = if b then 1 else 0 := by cases b <;> rfl

theorem scanModeCode_toNat (m : ScanMode) :
    (scanModeCode m).toNat = if m = .horizontal then 0 else if m = .vertical then 1
      else if m = .horizontalReverse then 2 else 3 := by
  cases m <;> rfl

/-- A flag of a byte weighs what its bit does. -/
theorem bit_toNat_mul (b : Bool) (n : Nat) : (bit b).toNat * n = if b then n else 0 := by
  cases b <;> simp [bit_toNat]

/-- The scan byte as a sum of its fields (43_header_framer R191). -/
theorem scanByte_toNat (c : ConfigRegs) :
    (scanByte c).toNat = (scanModeCode c.scan.mode).toNat + (bit (byteOrderCode c.scan.byteOrder)).toNat * 16
      + (bit (bitOrderCode c.scan.bitOrder)).toNat * 32 + (bit c.preCtrl.mirrorH).toNat * 64
      + (bit c.preCtrl.mirrorV).toNat * 128 := by
  simp only [scanByte, toNat_append_eq, BitVec.toNat_ofNat]
  omega

theorem byteOrderCode_iff (o : ByteOrder) : byteOrderCode o = true ↔ o = .lsb := by cases o <;> decide

theorem bitOrderCode_iff (o : BitOrder) : bitOrderCode o = true ↔ o = .lsbFirst := by cases o <;> decide

theorem le16_toNat {n : Nat} (h : n < 65536) : (le16 n).map BitVec.toNat = [n % 256, n / 256] := by
  have hhigh : n / 256 % 2 ^ 8 = n / 256 := Nat.mod_eq_of_lt (by omega)
  simp only [le16, List.map_cons, List.map_nil, BitVec.toNat_ofNat, hhigh]

/-! ### The tables of the formats, code by code -/

/-- 30_encoding R84's bits-per-pixel column. -/
theorem bitsPerPixel_of_code (k : BitVec 4) :
    (formatOfCode k).map bitsPerPixel = [1, 2, 4, 8, 8, 12, 16, 18, 24, 32][k.toNat]? := by
  revert k
  decide

/-- The gray class is FMT 0 to 3 (41_quantize_pack R140). -/
theorem isGrayClass_of_code (k : BitVec 4) :
    (formatOfCode k).map isGrayClass = (formatOfCode k).map fun _ => decide (k.toNat ≤ 3) := by
  revert k
  decide

/-- The RGB-order byte (43_header_framer R196). -/
theorem rgbByte_headerOrder_toNat (f : Format) (o : RgbOrder) :
    (rgbByte (headerOrder f o)).toNat
      = if f = .color24bit ∨ f = .color32bit then
          [0x1B, 0x1E, 0x27, 0x2D, 0x36, 0x39].getD (rgbOrderCode o).toNat 0
        else 0x1B := by
  cases f <;> cases o <;> rfl

theorem headGray_toNat (f : Format) (c : ConfigRegs) {W H : Nat} (hW : W < 65536) (hH : H < 65536) :
    (headGray f c W H).map BitVec.toNat
      = [(scanByte c).toNat, bitsPerPixel f, W % 256, W / 256, H % 256, H / 256] := by
  have hbpp : bitsPerPixel f % 2 ^ 8 = bitsPerPixel f := by cases f <;> rfl
  simp only [headGray, List.map_append, le16_toNat hW, le16_toNat hH, List.map_cons, BitVec.toNat_ofNat,
    hbpp, List.cons_append, List.nil_append]

/-! ### The palette -/

theorem paletteCount_eq (c : ConfigRegs) :
    paletteCount c = if c.hdrCtrl.palSrc = .caller then c.palCount.toNat else 256 := by
  unfold paletteCount
  cases c.hdrCtrl.palSrc <;> rfl

/-- Byte `j` of entry `e`, past the two bytes of the count (43_header_framer R198). -/
theorem paletteTable_getD_entry (c : ConfigRegs) (s : State) {e j : Nat} (he : e < paletteCount c) (hj : j < 3) :
    (paletteTable c s.paletteEntry).getD (2 + 3 * e + j) 0#8 = (paletteColor c s.paletteEntry e).getD j 0#8 := by
  have hentry : (List.range (paletteCount c))[e]? = some e := List.getElem?_range he
  rw [paletteTable, List.getD_append_right _ _ _ _ (by rw [le16_length]; omega), le16_length,
    List.getD_eq_getElem?_getD, List.getD_eq_getElem?_getD, Nat.add_assoc, Nat.add_sub_cancel_left, Nat.mul_comm 3 e,
    flatMap_getElem?_group _ _ 3 (paletteColor_length c s) e j e hentry hj]

theorem State.paletteEntry_getD (s : State) (e : Nat) {j : Nat} (hj : j < 3) :
    (s.paletteEntry e).getD j 0#8 = s.paletteByte (3 * e + j) := by
  match j, hj with
  | 0, _ | 1, _ | 2, _ => rfl

theorem grayEntry_getD_toNat {e j : Nat} (he : e < 256) (hj : j < 3) : ((grayEntry e).getD j 0#8).toNat = e := by
  match j, hj with
  | 0, _ | 1, _ | 2, _ => exact Nat.mod_eq_of_lt he

/-- Three bits replicated are the nearest multiple of 255/7 (43_header_framer R200). -/
theorem rep3_toNat (v : BitVec 3) : (rep3 v).toNat = (2 * (v.toNat * 255) + 7) / 14 := by
  revert v
  decide

/-- Two bits replicated are a multiple of 85 (43_header_framer R200). -/
theorem rep2_toNat (v : BitVec 2) : (v ++ v ++ v ++ v).toNat = 85 * v.toNat := by
  revert v
  decide

theorem rgb332Entry_toNat {e : Nat} (he : e < 256) :
    (rgb332Entry e).map BitVec.toNat
      = [(2 * (e / 32 * 255) + 7) / 14, (2 * (e / 4 % 8 * 255) + 7) / 14, 85 * (e % 4)] := by
  have hred : ((BitVec.ofNat 8 e).extractLsb' 5 3).toNat = e / 32 := by
    simp only [BitVec.extractLsb'_toNat, BitVec.toNat_ofNat, Nat.shiftRight_eq_div_pow]
    omega
  have hgreen : ((BitVec.ofNat 8 e).extractLsb' 2 3).toNat = e / 4 % 8 := by
    simp only [BitVec.extractLsb'_toNat, BitVec.toNat_ofNat, Nat.shiftRight_eq_div_pow]
    omega
  have hblue : ((BitVec.ofNat 8 e).extractLsb' 0 2).toNat = e % 4 := by
    simp only [BitVec.extractLsb'_toNat, BitVec.toNat_ofNat, Nat.shiftRight_eq_div_pow]
    omega
  simp only [rgb332Entry, List.map_cons, List.map_nil, rep3_toNat, rep2_toNat, hred, hgreen, hblue]

end Sys2Proof.Machine

namespace Sys2Proof

open Machine

/-- Settles O48: the code of the format fixes the bits-per-pixel byte and the class, and the class fixes the header. -/
theorem headerLayout : Obligations.HeaderLayout := by
  unfold Obligations.HeaderLayout
  intro k f c W H bpp hW hH hf hbpp
  have hbits : bitsPerPixel f = bpp := by
    have h := bitsPerPixel_of_code k
    rw [hf, hbpp] at h
    exact Option.some.inj h
  have hclass : isGrayClass f = decide (k.toNat ≤ 3) := by
    have h := isGrayClass_of_code k
    rw [hf] at h
    exact Option.some.inj h
  have hgray := headGray_toNat f c hW hH
  rw [hbits] at hgray
  refine ⟨?scan, fun hk => ?gray, fun hk => ?color, rfl, rfl, rfl, rfl, rfl, rfl⟩
  case scan =>
    rw [scanByte_toNat, scanModeCode_toNat]
    simp only [bit_toNat_mul, byteOrderCode_iff, bitOrderCode_iff]
  case gray =>
    rw [header, hclass, if_pos (by simpa using hk)]
    exact hgray
  case color =>
    rw [header, hclass, if_neg (by simp; omega), headColor, List.map_append, hgray]
    simp only [List.map_cons, List.map_nil, rgbByte_headerOrder_toNat]
    rfl

/-- Settles O49: the count's two bytes, then each entry's three, which the source gives. -/
theorem paletteSerialisation : Obligations.PaletteSerialisation := by
  unfold Obligations.PaletteSerialisation
  intro c s n hn
  rw [← paletteCount_eq] at hn
  have hlt : n < 512 := by
    rw [hn, paletteCount_eq]
    split <;> omega
  refine ⟨hn ▸ paletteTable_length c s, ?low, ?high, fun e j he hj => ?entry⟩
  case low =>
    rw [hn]
    rfl
  case high =>
    have hbyte : (BitVec.ofNat 8 (n / 256)).toNat = n / 256 := by
      rw [BitVec.toNat_ofNat]
      omega
    rw [← hbyte, hn]
    rfl
  case entry =>
    have hsmall (h : c.hdrCtrl.palSrc ≠ .caller) : e < 256 := by
      rwa [hn, paletteCount_eq, if_neg h] at he
    rw [paletteTable_getD_entry c s (hn ▸ he) hj, paletteColor]
    refine ⟨fun h => ?caller, fun h => ?grayscale, fun h => ?rgb332⟩
    case caller =>
      rw [h]
      exact s.paletteEntry_getD e hj
    case grayscale =>
      have he' := hsmall (by simp [h])
      rw [h]
      exact grayEntry_getD_toNat he' hj
    case rgb332 =>
      have he' := hsmall (by simp [h])
      rw [h, ← rgb332Entry_toNat he']
      exact (List.getD_map (f := BitVec.toNat) (rgb332Entry e) 0#8).symm

end Sys2Proof
end

section
/-! PROOF. The register page (10_state R22 to R44, 70_reset R257, R258): STATUS bit by bit, what each register reads and
stores, and the writes a busy block drops. -/

namespace Sys2Proof.Machine

/-! ### Words, bit by bit -/

/-- STATUS as read, bit by bit (10_state R24). -/
theorem State.statusWord_getLsbD (s : State) (i : Nat) :
    s.statusWord.getLsbD i
      = if i = 0 then s.busy else if i = 1 then s.status.done else if i = 2 then s.status.err
        else if i < 4 then false else if i < 8 then s.status.errCode.getLsbD (i - 4)
        else if i = 8 then s.status.cmdOvr else if i = 9 then s.status.wrBusy
        else if i = 16 then s.status.outValid else false := by
  by_cases hi : i < 32
  · simp only [State.statusWord, bit, BitVec.getLsbD_append]
    interval_cases i <;> simp
  · rw [BitVec.getLsbD_of_ge _ _ (Nat.le_of_not_lt hi)]
    split_ifs <;> first | rfl | omega

/-! ### Codes by number -/

theorem formatOfCode_eq_getElem? (k : BitVec 4) :
    formatOfCode k = [Format.mono, .gray4, .gray16, .grayscale, .color256, .color4096, .color16bit, .color18bit,
      .color24bit, .color32bit][k.toNat]? := by
  revert k
  decide

theorem rgbOrderOfCode_eq_getElem? (k : BitVec 3) :
    rgbOrderOfCode k = [RgbOrder.rgb, .rbg, .grb, .gbr, .brg, .bgr][k.toNat]? := by
  revert k
  decide

theorem scanModeOfCode_eq_getElem? (k : BitVec 2) :
    some (scanModeOfCode k) = [ScanMode.horizontal, .vertical, .horizontalReverse, .dataVertical][k.toNat]? := by
  revert k
  decide

theorem ditherOfCode_eq_getElem? (k : BitVec 2) :
    ditherOfCode k = [Dither.off, .errorDiffusion, .ordered][k.toNat]? := by
  revert k
  decide

theorem palSourceOfCode_eq_getElem? (k : BitVec 2) :
    palSourceOfCode k = [PalSource.rgb332, .grayscale, .caller][k.toNat]? := by
  revert k
  decide

/-! ### A field as it reads after a write -/

/-- RGB_ORDER after a write of a code: 6 and 7 leave it (10_state R26). -/
theorem rgbOrderCode_store (k : BitVec 3) (o : RgbOrder) :
    rgbOrderCode ((rgbOrderOfCode k).getD o) = if k = 6#3 ∨ k = 7#3 then rgbOrderCode o else k := by
  cases o <;> revert k <;> decide

theorem scanModeCode_scanModeOfCode (k : BitVec 2) : scanModeCode (scanModeOfCode k) = k := by
  revert k
  decide

/-- DITHER after a write of a code: 3 leaves it (10_state R28). -/
theorem ditherCode_store (k : BitVec 2) (d : Dither) :
    ditherCode ((ditherOfCode k).getD d) = if k = 3#2 then ditherCode d else k := by
  cases d <;> revert k <;> decide

/-- PAL_SRC after a write of a code: 3 leaves it (10_state R32). -/
theorem palSourceCode_store (k : BitVec 2) (p : PalSource) :
    palSourceCode ((palSourceOfCode k).getD p) = if k = 3#2 then palSourceCode p else k := by
  cases p <;> revert k <;> decide

theorem byteOrderCode_byteOrderOfCode (b : Bool) : byteOrderCode (byteOrderOfCode b) = b := by cases b <;> rfl

theorem bitOrderCode_bitOrderOfCode (b : Bool) : bitOrderCode (bitOrderOfCode b) = b := by cases b <;> rfl

/-- A 16-bit field as it reads: the low half of the word written. -/
theorem setWidth_low_half (w : Word) : (w.extractLsb' 0 16).setWidth 32 = w &&& 0xFFFF#32 := by
  ext i hi
  interval_cases i <;> simp

/-- FORMAT as it reads after a write, bit by bit: bits 10:8 and 3:0 of the word written, and RGB_ORDER
(10_state R26). -/
theorem FormatReg.toWord_store (r : FormatReg) (w : Word) :
    (r.store w).toWord = (w &&& 0x70F#32)
      ||| ((if w.extractLsb' 4 3 = 6#3 ∨ w.extractLsb' 4 3 = 7#3 then r.toWord else w) &&& 0x70#32) := by
  simp only [FormatReg.toWord, FormatReg.store, rgbOrderCode_store, bit]
  refine BitVec.eq_of_getLsbD_eq fun i hi => ?_
  split <;> simp only [BitVec.getLsbD_append, BitVec.getLsbD_or, BitVec.getLsbD_and] <;> interval_cases i <;> simp

/-- SCAN as it reads after a write, bit by bit: bits 5:4 and 1:0 of the word written (10_state R27). -/
theorem ScanReg.toWord_ofWord (w : Word) : (ScanReg.ofWord w).toWord = w &&& 0x33#32 := by
  simp only [ScanReg.toWord, ScanReg.ofWord, scanModeCode_scanModeOfCode, byteOrderCode_byteOrderOfCode,
    bitOrderCode_bitOrderOfCode, bit]
  refine BitVec.eq_of_getLsbD_eq fun i hi => ?_
  simp only [BitVec.getLsbD_append, BitVec.getLsbD_and]
  interval_cases i <;> simp

/-- PRE_CTRL as it reads after a write, bit by bit: bits 7:0 of the word written, and DITHER (10_state R28). -/
theorem PreCtrl.toWord_store (r : PreCtrl) (w : Word) :
    (r.store w).toWord
      = (w &&& 0xFF#32) ||| ((if w.extractLsb' 8 2 = 3#2 then r.toWord else w) &&& 0x300#32) := by
  simp only [PreCtrl.toWord, PreCtrl.store, ditherCode_store, bit]
  refine BitVec.eq_of_getLsbD_eq fun i hi => ?_
  split <;> simp only [BitVec.getLsbD_append, BitVec.getLsbD_or, BitVec.getLsbD_and] <;> interval_cases i <;> simp

/-- HDR_CTRL as it reads after a write, bit by bit: bits 1:0 of the word written, and PAL_SRC (10_state R32). -/
theorem HdrCtrl.toWord_store (r : HdrCtrl) (w : Word) :
    (r.store w).toWord
      = (w &&& 0x3#32) ||| ((if w.extractLsb' 2 2 = 3#2 then r.toWord else w) &&& 0xC#32) := by
  simp only [HdrCtrl.toWord, HdrCtrl.store, palSourceCode_store, bit]
  refine BitVec.eq_of_getLsbD_eq fun i hi => ?_
  split <;> simp only [BitVec.getLsbD_append, BitVec.getLsbD_or, BitVec.getLsbD_and] <;> interval_cases i <;> simp

/-! ### Reads and writes of the register page -/

theorem clamp_neg255_255 (v : Int) : clamp v (-255) 255 = min 255 (max (-255) v) := by
  unfold clamp
  split_ifs <;> omega

theorem clampSigned255_eq (w : Word) : (clampSigned255 w).toInt = min 255 (max (-255) w.toInt) :=
  (clampSigned255_toInt w).trans (clamp_neg255_255 _)

theorem palCountOf_toNat (w : Word) : (palCountOf w).toNat = min w.toNat 256 := by
  rw [palCountOf, BitVec.toNat_ofNat]
  omega

/-- The eleven RW and WARL registers at their offsets: what an idle write stores (10_state section 2). -/
theorem State.writeWord_config_offsets (s : State) (w : Word) (hidle : s.pending = none) :
    s.writeWord 0x0C w = s.storeReg .frameW w ∧ s.writeWord 0x10 w = s.storeReg .frameH w
      ∧ s.writeWord 0x14 w = s.storeReg .format w ∧ s.writeWord 0x18 w = s.storeReg .scan w
      ∧ s.writeWord 0x1C w = s.storeReg .preCtrl w ∧ s.writeWord 0x20 w = s.storeReg .maxW w
      ∧ s.writeWord 0x24 w = s.storeReg .maxH w ∧ s.writeWord 0x28 w = s.storeReg .brightness w
      ∧ s.writeWord 0x2C w = s.storeReg .contrast w ∧ s.writeWord 0x30 w = s.storeReg .hdrCtrl w
      ∧ s.writeWord 0x34 w = s.storeReg .palCount w := by
  have store (r : RegName) (hr : isConfigReg r = true) := s.writeWord_config r w hidle hr
  exact ⟨store .frameW rfl, store .frameH rfl, store .format rfl, store .scan rfl, store .preCtrl rfl, store .maxW rfl,
    store .maxH rfl, store .brightness rfl, store .contrast rfl, store .hdrCtrl rfl, store .palCount rfl⟩

/-- ERR_CODE as read (10_state R24). -/
theorem State.statusWord_errCode (s : State) : s.statusWord.extractLsb' 4 4 = s.status.errCode := by
  refine BitVec.eq_of_getLsbD_eq fun i hi => ?_
  rw [BitVec.getLsbD_extractLsb', State.statusWord_getLsbD]
  interval_cases i <;> simp

/-- A write to a read-only register or a reserved offset of the register page is ignored, busy or not (10_state R34,
R44). -/
theorem State.writeWord_readOnly (s : State) (w : Word) {off : Nat} (hlo : 0x38 ≤ off) (hhi : off < 0x100) :
    s.writeWord off w = s := by
  cases hr : regAt off with
  | none => exact (s.access_of_regAt_none 0#32 w (regionOf_registers hhi) hr).2
  | some r =>
    obtain rfl := regOffset_of_regAt hr
    rw [State.writeWord_regOffset]
    cases r
    case resW | resH | payLen | outLen | resInfo => rfl
    all_goals exact absurd hlo (by decide)

/-- An idle write to one configuration register changes what no other register reads (10_state R44). -/
theorem State.readReg_storeReg_of_ne (s : State) (w : Word) {r r' : RegName} (h : r' ≠ r) :
    (s.storeReg r w).readReg r' = s.readReg r' := by
  cases r <;> cases r' <;> first | rfl | exact absurd rfl h

/-- The RW and WARL registers fill the offsets 0x0C to 0x34 (70_reset R258). -/
theorem exists_configReg {off : Nat} (hlo : 0x0C ≤ off) (hhi : off ≤ 0x34) (halign : off % 4 = 0) :
    ∃ r, off = regOffset r ∧ isConfigReg r = true := by
  have hoff : off = 0x0C ∨ off = 0x10 ∨ off = 0x14 ∨ off = 0x18 ∨ off = 0x1C ∨ off = 0x20 ∨ off = 0x24 ∨ off = 0x28
      ∨ off = 0x2C ∨ off = 0x30 ∨ off = 0x34 := by omega
  rcases hoff with rfl | rfl | rfl | rfl | rfl | rfl | rfl | rfl | rfl | rfl | rfl
  · exact ⟨.frameW, rfl, rfl⟩
  · exact ⟨.frameH, rfl, rfl⟩
  · exact ⟨.format, rfl, rfl⟩
  · exact ⟨.scan, rfl, rfl⟩
  · exact ⟨.preCtrl, rfl, rfl⟩
  · exact ⟨.maxW, rfl, rfl⟩
  · exact ⟨.maxH, rfl, rfl⟩
  · exact ⟨.brightness, rfl, rfl⟩
  · exact ⟨.contrast, rfl, rfl⟩
  · exact ⟨.hdrCtrl, rfl, rfl⟩
  · exact ⟨.palCount, rfl, rfl⟩

/-! ### Writes a busy block drops -/

section

variable {s : State} {off : Nat}

theorem State.writeReg_config_busy (hbusy : s.pending ≠ none) {r : RegName} (hr : isConfigReg r = true) (w : Word) :
    s.writeReg r w = s.dropWrite := by
  have hb := State.busy_eq_true hbusy
  cases r
  case id | cmd | status | resW | resH | payLen | outLen | resInfo => cases hr
  all_goals exact if_pos hb

theorem State.writeWord_palette_busy (hbusy : s.pending ≠ none) (h : regionOf off = .palette) (w : Word) :
    s.writeWord off w = s.dropWrite := by
  simp [State.writeWord, h, State.busy_eq_true hbusy]

theorem State.writeWord_frame_busy (hbusy : s.pending ≠ none) (h : regionOf off = .frame)
    (hi : (off - frameBase) / 4 < s.params.maxPixels) (w : Word) : s.writeWord off w = s.dropWrite := by
  simp [State.writeWord, h, hi, State.busy_eq_true hbusy]

end

theorem regionOf_eq_palette {off : Nat} (hlo : 0x400 ≤ off) (hhi : off < 0x700) : regionOf off = .palette := by
  unfold regionOf
  split_ifs <;> first | rfl | omega

theorem regionOf_eq_frame {off : Nat} (hlo : 0x100000 ≤ off) (hhi : off < 0x500000) : regionOf off = .frame := by
  unfold regionOf
  split_ifs <;> first | rfl | omega

theorem regionOf_past_frame {off : Nat} (h : 0x500000 ≤ off) : regionOf off = .output ∨ regionOf off = .reserved := by
  unfold regionOf
  split_ifs <;> first | exact .inl rfl | exact .inr rfl | omega

/-- Past the frame RAM no write has an effect, busy or not (20_memory R64, R65, R67, 92 D44). -/
theorem State.writeWord_past_frame (s : State) (w : Word) {off : Nat} (h : 0x100000 + 4 * s.params.maxPixels ≤ off) :
    s.writeWord off w = s := by
  rcases Nat.lt_or_ge off 0x500000 with hframe | hpast
  · have hindex : ¬ (off - frameBase) / 4 < s.params.maxPixels := by
      unfold frameBase
      omega
    simp [State.writeWord, regionOf_eq_frame (by omega) hframe, hindex]
  · rcases regionOf_past_frame hpast with hr | hr <;> simp [State.writeWord, hr]

end Sys2Proof.Machine

namespace Sys2Proof

open Machine

/-- Settles O53: a write to 0x08 is `writeOneToClear`, and a read is `statusWord`, bit by bit. -/
theorem statusRegisterBits : Obligations.StatusRegisterBits := by
  unfold Obligations.StatusRegisterBits
  intro s u w v hv
  have hread : v = s.statusWord := hv.trans (s.readWord_regOffset u .status)
  refine ⟨s.writeWord_regOffset .status w, ?_⟩
  rw [hread]
  refine ⟨?_, ?_, ?_, s.statusWord_errCode, ?_, ?_, ?_, fun i hi => ?_⟩
  case refine_7 =>
    rw [State.statusWord_getLsbD]
    split_ifs <;> first | rfl | omega
  all_goals
    rw [State.statusWord_getLsbD]
    rfl

/-- Settles O55: each range of offsets is a register, a region, or past the frame RAM, and a busy block's write to it is
dropped with its bit or ignored. -/
theorem writesWhileBusyAreDropped : Obligations.WritesWhileBusyAreDropped := by
  unfold Obligations.WritesWhileBusyAreDropped
  intro s off w hp hbusy halign _
  have hmax := maxPixels_le hp
  refine ⟨?cmd, ?dropped, ?ignored⟩
  case cmd =>
    rintro rfl
    have hcmd : s.writeWord 0x04 w = s.writeCmd w := s.writeWord_regOffset .cmd w
    rw [hcmd, State.writeCmd, if_pos (State.busy_eq_true hbusy)]
    rfl
  case dropped =>
    rintro (⟨hlo, hhi⟩ | ⟨hlo, hhi⟩ | ⟨hlo, hhi⟩)
    · obtain ⟨r, rfl, hr⟩ := exists_configReg hlo hhi halign
      rw [State.writeWord_regOffset]
      exact State.writeReg_config_busy hbusy hr w
    · exact State.writeWord_palette_busy hbusy (regionOf_eq_palette hlo hhi) w
    · exact State.writeWord_frame_busy hbusy (regionOf_eq_frame hlo (by omega)) (by unfold frameBase; omega) w
  case ignored =>
    rintro (rfl | ⟨hlo, hhi⟩ | ⟨hlo, hhi⟩ | hpast)
    · exact s.writeWord_regOffset .id w
    · rcases Nat.lt_or_ge off 0x100 with hpage | hreserved
      · exact s.writeWord_readOnly w hlo hpage
      · exact (s.access_of_region_reserved 0#32 w (regionOf_reserved (.inl ⟨hreserved, hhi⟩))).2
    · exact (s.access_of_region_reserved 0#32 w (regionOf_reserved (.inr (.inl ⟨hlo, hhi⟩)))).2
    · exact s.writeWord_past_frame w hpast

/-- Settles O54: a read is the register's, an idle write stores to one configuration register, and each field is read
back by its code. -/
theorem configurationRegistersReadBack : Obligations.ConfigurationRegistersReadBack := by
  unfold Obligations.ConfigurationRegistersReadBack
  intro s u w
  have hread (s : State) := s.readWord_regOffset u
  refine ⟨⟨?resW, ?resH, hread s .payLen, hread s .outLen, ?resInfo, fun off hlo hhi => s.writeWord_readOnly w hlo
    (by omega), hread s .id, s.writeWord_regOffset .id w, hread s .cmd⟩, fun hidle => ⟨?stores, ?readsBack, ?frame⟩⟩
  case resW =>
    rw [show s.readWord u 0x38 = s.result.resW.setWidth 32 from hread s .resW]
    exact BitVec.toNat_setWidth_of_le (by decide)
  case resH =>
    rw [show s.readWord u 0x3C = s.result.resH.setWidth 32 from hread s .resH]
    exact BitVec.toNat_setWidth_of_le (by decide)
  case resInfo =>
    rw [show s.readWord u 0x48 = s.result.resInfo.toWord from hread s .resInfo, ResInfo.toWord_toNat,
      scanModeCode_toNat]
  case stores =>
    obtain ⟨h0C, h10, h14, h18, h1C, h20, h24, h28, h2C, h30, h34⟩ := s.writeWord_config_offsets w hidle
    rw [h0C, h10, h14, h18, h1C, h20, h24, h28, h2C, h30, h34]
    refine ⟨rfl, rfl, rfl, formatOfCode_eq_getElem? _, ?_, scanModeOfCode_eq_getElem? _, rfl, rfl, ?_, rfl, rfl,
      clampSigned255_eq w, clampSigned255_eq w, ?_, palCountOf_toNat w⟩
    · rw [List.getD_eq_getElem?_getD, ← rgbOrderOfCode_eq_getElem?]
      rfl
    · rw [List.getD_eq_getElem?_getD, ← ditherOfCode_eq_getElem?]
      rfl
    · rw [List.getD_eq_getElem?_getD, ← palSourceOfCode_eq_getElem?]
      rfl
  case readsBack =>
    obtain ⟨h0C, h10, h14, h18, h1C, h20, h24, h28, h2C, h30, h34⟩ := s.writeWord_config_offsets w hidle
    rw [h0C, h10, h14, h18, h1C, h20, h24, h28, h2C, h30, h34, show s.readWord u 0x14 = _ from hread s .format,
      show s.readWord u 0x1C = _ from hread s .preCtrl, show s.readWord u 0x30 = _ from hread s .hdrCtrl]
    exact ⟨(hread _ .frameW).trans (setWidth_low_half w), (hread _ .frameH).trans (setWidth_low_half w),
      (hread _ .format).trans (FormatReg.toWord_store _ w), (hread _ .scan).trans (ScanReg.toWord_ofWord w),
      (hread _ .preCtrl).trans (PreCtrl.toWord_store _ w), (hread _ .maxW).trans (setWidth_low_half w),
      (hread _ .maxH).trans (setWidth_low_half w), (congrArg _ (hread _ .brightness)).trans (clampSigned255_eq w),
      (congrArg _ (hread _ .contrast)).trans (clampSigned255_eq w), (hread _ .hdrCtrl).trans (HdrCtrl.toWord_store _ w),
      (congrArg _ (hread _ .palCount)).trans ((BitVec.toNat_setWidth_of_le (by decide)).trans (palCountOf_toNat w))⟩
  case frame =>
    intro r hr
    rw [s.writeWord_config r w hidle hr]
    exact ⟨fun r' hne => s.readReg_storeReg_of_ne w hne, s.storeReg_frame r w, s.storeReg_palette r w,
      s.storeReg_output r w, s.storeReg_pending r w, by simp [SameEnvironment]⟩

end Sys2Proof
end
